-- ==== Sys2Proof/Word.lean ====
section
/-! DEFINITION. The two data units of the block: bytes and 64-bit containers (spec/00_scope.md section 5.1,
spec/20_memory.md rule R51). -/

namespace Sys2Proof

/-- A byte, 8 bits (rule R51). -/
abbrev Byte := BitVec 8

/-- A 64-bit container, bit 0 the least significant (spec/00_scope.md section 5.1). A Word of the configured
width is carried in one (spec/10_state.md rule R33). -/
abbrev Word := BitVec 64

end Sys2Proof
end

