-- ==== Sys2Proof/Syntax.lean ====
section
/-! DEFINITION. The 33 operations of spec/opcode_table.json with their operands (spec/30_encoding.md rule R80),
the ten value kinds (rule R81), the eight status registers (spec/10_state.md rule R36). Indices, offsets,
positions and counts are natural numbers, as rule R73 asks; their 8- and 16-bit bounds belong to the encoding
and are checked in WellFormed. -/

namespace Sys2Proof

/-- The ten value kinds (spec/10_state.md rule R35; codes of spec/30_encoding.md rule R81). -/
inductive ValueKind where
  | int32 | uint32 | int16 | uint16 | int8 | uint8 | bool | float32 | float64 | rawBits
deriving DecidableEq, Repr, Inhabited

/-- The eight read-only registers (spec/10_state.md rule R36). -/
inductive Csr where
  | cfg0 | expwc | expbytes | buflen | status | nfields | nbitfields | bufcap
deriving DecidableEq, Repr, Inhabited

/-- What kind of payload an operation takes: the column "in" of spec/30_encoding.md rule R80. -/
inductive PayloadKind where
  | nothing | bytes | word | words
deriving DecidableEq, Repr, Inhabited

/-- The operations (spec/30_encoding.md rule R80), in the table's order. -/
inductive Instr where
  | extractWords
  | wordToBytes
  | bytesToWord (offset : Nat)
  | validate
  | frExtract
  | frEncode
  | frValidate
  | extractBits (startBit bitCount : Nat)
  | extractInt8 (startBit bitCount : Nat)
  | extractInt16 (startBit bitCount : Nat)
  | extractInt32 (startBit bitCount : Nat)
  | extractUint8 (startBit bitCount : Nat)
  | extractUint16 (startBit bitCount : Nat)
  | extractUint32 (startBit bitCount : Nat)
  | extractBool (bitPosition : Nat)
  | extractFloat32 (startBit : Nat)
  | extractFloat64 (startBit : Nat)
  | extractAcross (startWordIndex startBit bitCount : Nat)
  | extractRange (first last startBit : Nat)
  | extractField (wordIndex startBit bitCount : Nat) (kind : ValueKind)
  | extractNamed (key : Nat)
  | feed
  | feedByte (byte : Byte)
  | peek
  | poll
  | reset
  | decode
  | encode
  | seqToBytes
  | seqValid
  | getField (key : Nat)
  | getFieldRange (key : Nat)
  | rdcsr (csr : Csr)
deriving DecidableEq, Repr, Inhabited

end Sys2Proof
end

