-- ==== Sys2Proof/WellFormed.lean ====
section
/-! DEFINITION. When an instruction can be written as a command word: every operand fits its field of `CMD64`
(spec/30_encoding.md rules R72, R73). The bounds belong to the encoding alone; the meanings take any natural
number. -/

namespace Sys2Proof

/-- `POS` and `CNT` are 8-bit fields (rule R72). -/
def fitsByte (n : Nat) : Bool := decide (n < 256)

/-- `IDX0` and `IDX1` are 16-bit fields (rule R72). -/
def fitsIndex (n : Nat) : Bool := decide (n < 65536)

/-- Every operand of the instruction fits its field. -/
def Instr.wellFormed : Instr → Bool
  | .extractWords => true
  | .wordToBytes => true
  | .bytesToWord offset => fitsIndex offset
  | .validate => true
  | .frExtract => true
  | .frEncode => true
  | .frValidate => true
  | .extractBits p n => fitsByte p && fitsByte n
  | .extractInt8 p n => fitsByte p && fitsByte n
  | .extractInt16 p n => fitsByte p && fitsByte n
  | .extractInt32 p n => fitsByte p && fitsByte n
  | .extractUint8 p n => fitsByte p && fitsByte n
  | .extractUint16 p n => fitsByte p && fitsByte n
  | .extractUint32 p n => fitsByte p && fitsByte n
  | .extractBool p => fitsByte p
  | .extractFloat32 p => fitsByte p
  | .extractFloat64 p => fitsByte p
  | .extractAcross i p n => fitsIndex i && fitsByte p && fitsByte n
  | .extractRange i j p => fitsIndex i && fitsIndex j && fitsByte p
  | .extractField i p n _ => fitsIndex i && fitsByte p && fitsByte n
  | .extractNamed key => fitsIndex key
  | .feed => true
  | .feedByte _ => true
  | .peek => true
  | .poll => true
  | .reset => true
  | .decode => true
  | .encode => true
  | .seqToBytes => true
  | .seqValid => true
  | .getField key => fitsIndex key
  | .getFieldRange key => fitsIndex key
  | .rdcsr _ => true

end Sys2Proof
end

