-- ==== Sys2Proof/Decode.lean ====
section
/-! DEFINITION. The decoder of a 64-bit command word, total, rejecting by name, and after it the encoder
(spec/30_encoding.md rules R72 to R74, R80 to R85; spec/opcode_table.json). The spec gives the command word as one
64-bit number and no byte order for it, so the decoder reads that number. -/

namespace Sys2Proof

/-- Why a command word names no operation: the encoding clauses of rule R82. -/
inductive DecodeReject where
  /-- `OP` is not one of the 33 opcodes. -/
  | unknownOpcode (op : Nat)
  /-- `RSV` is not zero. -/
  | reservedByte (rsv : Nat)
  /-- EXTRACT_FIELD with `IDX1[3:0]` from 10 to 15. -/
  | reservedKind (code : Nat)
  /-- RDCSR with `IDX0` above 7. -/
  | noSuchRegister (number : Nat)
deriving DecidableEq, Repr

/-- `OP`, bits 7:0 (rule R72). -/
def opField (w : Word) : Nat := (w.extractLsb' 0 8).toNat
/-- `POS`, bits 15:8 (rule R72). -/
def posField (w : Word) : Nat := (w.extractLsb' 8 8).toNat
/-- `CNT`, bits 23:16 (rule R72). -/
def cntField (w : Word) : Nat := (w.extractLsb' 16 8).toNat
/-- `IDX0`, bits 39:24 (rule R72). -/
def idx0Field (w : Word) : Nat := (w.extractLsb' 24 16).toNat
/-- `IDX1`, bits 55:40 (rule R72). -/
def idx1Field (w : Word) : Nat := (w.extractLsb' 40 16).toNat
/-- The valueKind code of EXTRACT_FIELD, bits 43:40 (rule R72); `IDX1[15:4]` is ignored (rule R83). -/
def kindField (w : Word) : Nat := (w.extractLsb' 40 4).toNat
/-- `RSV`, bits 63:56 (rule R72). -/
def rsvField (w : Word) : Nat := (w.extractLsb' 56 8).toNat

/-- valueKind codes 0 to 9; 10 to 15 are reserved (rule R81). -/
def kindOfCode : Nat → Option ValueKind
  | 0 => some .int32
  | 1 => some .uint32
  | 2 => some .int16
  | 3 => some .uint16
  | 4 => some .int8
  | 5 => some .uint8
  | 6 => some .bool
  | 7 => some .float32
  | 8 => some .float64
  | 9 => some .rawBits
  | _ => none

/-- The code of a valueKind (rule R81). -/
def kindCode : ValueKind → Nat
  | .int32 => 0
  | .uint32 => 1
  | .int16 => 2
  | .uint16 => 3
  | .int8 => 4
  | .uint8 => 5
  | .bool => 6
  | .float32 => 7
  | .float64 => 8
  | .rawBits => 9

/-- CSR numbers 0 to 7 (spec/10_state.md rule R36). -/
def csrOfNumber : Nat → Option Csr
  | 0 => some .cfg0
  | 1 => some .expwc
  | 2 => some .expbytes
  | 3 => some .buflen
  | 4 => some .status
  | 5 => some .nfields
  | 6 => some .nbitfields
  | 7 => some .bufcap
  | _ => none

/-- The number of a CSR (spec/10_state.md rule R36). -/
def csrNumber : Csr → Nat
  | .cfg0 => 0
  | .expwc => 1
  | .expbytes => 2
  | .buflen => 3
  | .status => 4
  | .nfields => 5
  | .nbitfields => 6
  | .bufcap => 7

/-- The operation an opcode selects (rule R80), its operands read from the fields of rule R72. -/
def decodeOpcode (w : Word) : Except DecodeReject Instr :=
  match opField w with
  | 0x10 => .ok .extractWords
  | 0x11 => .ok .wordToBytes
  | 0x12 => .ok (.bytesToWord (idx0Field w))
  | 0x13 => .ok .validate
  | 0x20 => .ok .frExtract
  | 0x21 => .ok .frEncode
  | 0x22 => .ok .frValidate
  | 0x30 => .ok (.extractBits (posField w) (cntField w))
  | 0x31 => .ok (.extractInt8 (posField w) (cntField w))
  | 0x32 => .ok (.extractInt16 (posField w) (cntField w))
  | 0x33 => .ok (.extractInt32 (posField w) (cntField w))
  | 0x34 => .ok (.extractUint8 (posField w) (cntField w))
  | 0x35 => .ok (.extractUint16 (posField w) (cntField w))
  | 0x36 => .ok (.extractUint32 (posField w) (cntField w))
  | 0x37 => .ok (.extractBool (posField w))
  | 0x38 => .ok (.extractFloat32 (posField w))
  | 0x39 => .ok (.extractFloat64 (posField w))
  | 0x3A => .ok (.extractAcross (idx0Field w) (posField w) (cntField w))
  | 0x3B => .ok (.extractRange (idx0Field w) (idx1Field w) (posField w))
  | 0x3C => match kindOfCode (kindField w) with
    | some kind => .ok (.extractField (idx0Field w) (posField w) (cntField w) kind)
    | none => .error (.reservedKind (kindField w))
  | 0x3D => .ok (.extractNamed (idx1Field w))
  | 0x40 => .ok .feed
  | 0x41 => .ok (.feedByte (w.extractLsb' 8 8))
  | 0x42 => .ok .peek
  | 0x43 => .ok .poll
  | 0x44 => .ok .reset
  | 0x50 => .ok .decode
  | 0x51 => .ok .encode
  | 0x52 => .ok .seqToBytes
  | 0x53 => .ok .seqValid
  | 0x54 => .ok (.getField (idx1Field w))
  | 0x55 => .ok (.getFieldRange (idx1Field w))
  | 0x60 => match csrOfNumber (idx0Field w) with
    | some csr => .ok (.rdcsr csr)
    | none => .error (.noSuchRegister (idx0Field w))
  | op => .error (.unknownOpcode op)

/-- The decoder: a nonzero reserved byte is illegal whatever the opcode (rule R82). -/
def decode (w : Word) : Except DecodeReject Instr :=
  if rsvField w = 0 then decodeOpcode w else .error (.reservedByte (rsvField w))

/-- The operand fields of a command word, zero where the operation has none (rules R72, R85). -/
structure CommandFields where
  op : Nat
  pos : Nat := 0
  cnt : Nat := 0
  idx0 : Nat := 0
  idx1 : Nat := 0
deriving DecidableEq, Repr

/-- What stands in each field of an operation's command word (rule R80, column "fields"). -/
def fieldsOf : Instr → CommandFields
  | .extractWords => { op := 0x10 }
  | .wordToBytes => { op := 0x11 }
  | .bytesToWord offset => { op := 0x12, idx0 := offset }
  | .validate => { op := 0x13 }
  | .frExtract => { op := 0x20 }
  | .frEncode => { op := 0x21 }
  | .frValidate => { op := 0x22 }
  | .extractBits p n => { op := 0x30, pos := p, cnt := n }
  | .extractInt8 p n => { op := 0x31, pos := p, cnt := n }
  | .extractInt16 p n => { op := 0x32, pos := p, cnt := n }
  | .extractInt32 p n => { op := 0x33, pos := p, cnt := n }
  | .extractUint8 p n => { op := 0x34, pos := p, cnt := n }
  | .extractUint16 p n => { op := 0x35, pos := p, cnt := n }
  | .extractUint32 p n => { op := 0x36, pos := p, cnt := n }
  | .extractBool p => { op := 0x37, pos := p }
  | .extractFloat32 p => { op := 0x38, pos := p }
  | .extractFloat64 p => { op := 0x39, pos := p }
  | .extractAcross i p n => { op := 0x3A, pos := p, cnt := n, idx0 := i }
  | .extractRange i j p => { op := 0x3B, pos := p, idx0 := i, idx1 := j }
  | .extractField i p n kind => { op := 0x3C, pos := p, cnt := n, idx0 := i, idx1 := kindCode kind }
  | .extractNamed key => { op := 0x3D, idx1 := key }
  | .feed => { op := 0x40 }
  | .feedByte byte => { op := 0x41, pos := byte.toNat }
  | .peek => { op := 0x42 }
  | .poll => { op := 0x43 }
  | .reset => { op := 0x44 }
  | .decode => { op := 0x50 }
  | .encode => { op := 0x51 }
  | .seqToBytes => { op := 0x52 }
  | .seqValid => { op := 0x53 }
  | .getField key => { op := 0x54, idx1 := key }
  | .getFieldRange key => { op := 0x55, idx1 := key }
  | .rdcsr csr => { op := 0x60, idx0 := csrNumber csr }

/-- Rule R72: `CMD = OP | (POS << 8) | (CNT << 16) | (IDX0 << 24) | (IDX1 << 40)`, each operand cut to its
field's width. -/
def packCommand (f : CommandFields) : Word :=
  (BitVec.ofNat 8 f.op).setWidth 64
    ||| ((BitVec.ofNat 8 f.pos).setWidth 64 <<< 8)
    ||| ((BitVec.ofNat 8 f.cnt).setWidth 64 <<< 16)
    ||| ((BitVec.ofNat 16 f.idx0).setWidth 64 <<< 24)
    ||| ((BitVec.ofNat 16 f.idx1).setWidth 64 <<< 40)

/-- The command word of an instruction, unread fields zero (rules R72, R85). -/
def encode (i : Instr) : Word := packCommand (fieldsOf i)

/-- The instruction the decoder reads from the command word whose low `nbits` bits are those of `w` and whose
other bits are zero; none where it rejects. -/
def decodeTableWord (nbits w : Nat) : Option Instr :=
  match decode (BitVec.ofNat 64 (w % 2 ^ nbits)) with
  | .ok i => some i
  | .error _ => none

/-- The payload an operation takes (rule R80, column "in"). -/
def payloadKindOf : Instr → PayloadKind
  | .extractWords => .bytes
  | .wordToBytes => .word
  | .bytesToWord _ => .bytes
  | .validate => .bytes
  | .frExtract => .bytes
  | .frEncode => .bytes
  | .frValidate => .bytes
  | .extractBits _ _ => .word
  | .extractInt8 _ _ => .word
  | .extractInt16 _ _ => .word
  | .extractInt32 _ _ => .word
  | .extractUint8 _ _ => .word
  | .extractUint16 _ _ => .word
  | .extractUint32 _ _ => .word
  | .extractBool _ => .word
  | .extractFloat32 _ => .word
  | .extractFloat64 _ => .word
  | .extractAcross _ _ _ => .words
  | .extractRange _ _ _ => .words
  | .extractField _ _ _ _ => .words
  | .extractNamed _ => .words
  | .feed => .bytes
  | .feedByte _ => .nothing
  | .peek => .nothing
  | .poll => .nothing
  | .reset => .nothing
  | .decode => .bytes
  | .encode => .words
  | .seqToBytes => .words
  | .seqValid => .words
  | .getField _ => .words
  | .getFieldRange _ => .words
  | .rdcsr _ => .nothing

/-- The mnemonics of rule R80. -/
def mnemonic : Instr → String
  | .extractWords => "EXTRACT_WORDS"
  | .wordToBytes => "WORD_TO_BYTES"
  | .bytesToWord _ => "BYTES_TO_WORD"
  | .validate => "VALIDATE"
  | .frExtract => "FR_EXTRACT"
  | .frEncode => "FR_ENCODE"
  | .frValidate => "FR_VALIDATE"
  | .extractBits _ _ => "EXTRACT_BITS"
  | .extractInt8 _ _ => "EXTRACT_INT8"
  | .extractInt16 _ _ => "EXTRACT_INT16"
  | .extractInt32 _ _ => "EXTRACT_INT32"
  | .extractUint8 _ _ => "EXTRACT_UINT8"
  | .extractUint16 _ _ => "EXTRACT_UINT16"
  | .extractUint32 _ _ => "EXTRACT_UINT32"
  | .extractBool _ => "EXTRACT_BOOL"
  | .extractFloat32 _ => "EXTRACT_FLOAT32"
  | .extractFloat64 _ => "EXTRACT_FLOAT64"
  | .extractAcross _ _ _ => "EXTRACT_ACROSS"
  | .extractRange _ _ _ => "EXTRACT_RANGE"
  | .extractField _ _ _ _ => "EXTRACT_FIELD"
  | .extractNamed _ => "EXTRACT_NAMED"
  | .feed => "FEED"
  | .feedByte _ => "FEED_BYTE"
  | .peek => "PEEK"
  | .poll => "POLL"
  | .reset => "RESET"
  | .decode => "DECODE"
  | .encode => "ENCODE"
  | .seqToBytes => "SEQ_TO_BYTES"
  | .seqValid => "SEQ_VALID"
  | .getField _ => "GET_FIELD"
  | .getFieldRange _ => "GET_FIELD_RANGE"
  | .rdcsr _ => "RDCSR"

/-- The operand fields that are not zero, in the order of rule R85. -/
def fieldTexts (f : CommandFields) : List String :=
  [("pos", f.pos), ("cnt", f.cnt), ("idx0", f.idx0), ("idx1", f.idx1)].filterMap fun nv =>
    if nv.2 = 0 then none else some (nv.1 ++ "=" ++ toString nv.2)

/-- The textual form of an operation without its payload (rule R85): the mnemonic, then the fields, omitted
where zero. -/
def commandText (i : Instr) : String :=
  match fieldTexts (fieldsOf i) with
  | [] => mnemonic i
  | fs => mnemonic i ++ " " ++ String.intercalate ", " fs

end Sys2Proof
end

