-- ==== Sys2Proof/Config.lean ====
section
/-! DEFINITION. The configuration record, fixed at construction (spec/00_scope.md rule R7, spec/10_state.md rules
R20 to R29), and the free values, opaque constants that nothing in Lean can evaluate. What is computed from a
configuration (`byteWidth`, `sliceBytes`, `configOk`) stands in Machine/Ops.lean. -/

namespace Sys2Proof

/-- CFG.W: 16, 32 or 64 bits, no other width (rule R21). -/
inductive WordSize where
  | w16 | w32 | w64
deriving DecidableEq, Repr, Inhabited

/-- CFG.ORDER (rule R22). -/
inductive ByteOrder where
  | big | little
deriving DecidableEq, Repr, Inhabited

/-- CFG.FRAMER, a closed set of two (rule R23). -/
inductive Framer where
  | passthrough | standardMode
deriving DecidableEq, Repr, Inhabited

/-- CFG.WIDTH_MODE (rule R27). -/
inductive WidthMode where
  | configured | heuristic
deriving DecidableEq, Repr, Inhabited

/-- CFG.PAIR_ORDER (rule R28). -/
inductive PairOrder where
  | loFirst | hiFirst
deriving DecidableEq, Repr, Inhabited

/-- CFG.FEED_FAIL_POLICY (rule R29). -/
inductive FeedFailPolicy where
  | any | keepAll | dropDecoded | dropFailing
deriving DecidableEq, Repr, Inhabited

/-- A FieldSpec (rule R25), its name being the key of the table that holds it. -/
structure FieldSpec where
  startWordIndex : Nat
  endWordIndex : Nat
deriving DecidableEq, Repr, Inhabited

/-- A BitFieldSpec (rule R26), its name being the key of the table that holds it. -/
structure BitFieldSpec where
  wordIndex : Nat
  startBit : Nat
  bitCount : Nat
  kind : ValueKind
deriving DecidableEq, Repr, Inhabited

/-- The configuration (rule R7). A field with a default has the spec's own default (rule R261); the four without
one are arguments of every construction. -/
structure Config where
  wordSize : WordSize
  order : ByteOrder
  framer : Framer := .passthrough
  expectedWordCount : Nat
  fields : List (Nat × FieldSpec) := []
  bitFields : List (Nat × BitFieldSpec) := []
  widthMode : WidthMode := .configured
  pairOrder : PairOrder
  feedFailPolicy : FeedFailPolicy := .any
  stream : Bool := false
  bufCap : Option Nat := none
deriving DecidableEq, Repr, Inhabited

/-- The pair order of the instance that stands in `State.reset`. Rule R28: OPEN, no default, and a model must
not fix it. Entry 4 of the assumption log (DESIGN CHOICE). -/
opaque Config.pairOrderAtReset : PairOrder

/-- Free value: how many slices have left the buffer after a failed FEED, FEED_BYTE or POLL under policy Any,
reduced by its user to the range rules R186 and R194 give. Entry 5 of the assumption log. -/
opaque Config.freeCut : Nat → Nat

/-- Free value: whether the MSG_OUT events of the messages decoded before a failing slice were signalled
(rule R198). Entry 5 of the assumption log. -/
opaque Config.freeSignalled : Nat → Bool

end Sys2Proof
end

