-- ==== Sys2Proof/Machine/State.lean ====
section
/-! DEFINITION. The state of one instance, what it exchanges with its host, and the state after reset
(spec/10_state.md, spec/30_encoding.md rules R70 to R77, spec/60_exceptions.md rules R230 to R238). -/

namespace Sys2Proof.Machine

/-- What accompanies a command word (spec/30_encoding.md rule R71). A single word is a word sequence of
length 1. -/
inductive Payload where
  | nothing
  | bytes (bs : List Byte)
  | words (ws : List Word)
deriving DecidableEq, Repr, Inhabited

/-- What a host does to an instance: it issues a command (spec/30_encoding.md rule R71) or constructs a new
instance with a configuration (spec/70_reset_and_hazards.md rule R260). -/
inductive HostEvent where
  | command (word : Word) (payload : Payload)
  | hardReset (cfg : Config)
deriving DecidableEq, Repr, Inhabited

/-- Which StandardMode check failed (spec/60_exceptions.md rule R236). -/
inductive SubCause where
  | startBit | stopBit | oddLength
deriving DecidableEq, Repr, Inhabited

/-- The six error kinds (spec/60_exceptions.md rule R230); FramingError records a sub-cause and the index of the
failing symbol (rule R236), the others nothing. -/
inductive OpError where
  | alignment
  | bounds
  | rangeSize
  | framing (sub : SubCause) (symbol : Nat)
  | unknownField
  | insufficientBits
deriving DecidableEq, Repr, Inhabited

/-- A WordSequence (spec/10_state.md rule R34). -/
structure WordSeq where
  words : List Word
  expectedWordCount : Nat
  fields : List (Nat × FieldSpec)
deriving DecidableEq, Repr, Inhabited

/-- A WordSequence as it travels: its `fields` map is not transmitted (spec/30_encoding.md rule R77). -/
structure Message where
  words : List Word
  expectedWordCount : Nat
deriving DecidableEq, Repr, Inhabited

/-- A typed value: a kind and its bit pattern, zero-extended to a container (spec/10_state.md rule R35,
spec/30_encoding.md rule R76). -/
structure TypedValue where
  kind : ValueKind
  bits : Word
deriving DecidableEq, Repr, Inhabited

/-- What a typed value denotes (spec/10_state.md rule R35, the table's last column). -/
inductive Denotation where
  | integer (z : Int)
  | truth (b : Bool)
  | binary32 (pattern : BitVec 32)
  | binary64 (pattern : BitVec 64)
  | unsigned (n : Nat)
deriving DecidableEq, Repr

/-- The result of an operation that succeeded (spec/30_encoding.md rule R75). `noMessage` is the answer `none`
of PEEK and POLL. -/
inductive Result where
  | nothing
  | bytes (bs : List Byte)
  | words (ws : List Word)
  | scalar (v : Word)
  | boolean (b : Bool)
  | message (m : Message)
  | messages (ms : List Message)
  | noMessage
deriving DecidableEq, Repr, Inhabited

/-- A response (spec/30_encoding.md rule R75); `result` is absent exactly when `status` is not 0. -/
structure Response where
  status : BitVec 8
  info : BitVec 32
  result : Option Result
deriving DecidableEq, Repr, Inhabited

/-- What the block sends to its host: a MSG_OUT event (spec/43_message_reassembler.md rule R198) or a response. -/
inductive Output where
  | msgOut (m : Message)
  | response (r : Response)
deriving DecidableEq, Repr, Inhabited

/-- One instance and its interface. The block's own state is `cfg` (never written by an operation, spec/10_state.md
rule R20) and `buf` (rule R30). The three other fields are the model's own (entries 1, 2 and 5 of the log). -/
structure State where
  /-- The configuration, set by a hard reset only (spec/70_reset_and_hazards.md rule R260). -/
  cfg : Config
  /-- The reassembly buffer, oldest byte first (spec/10_state.md rule R30). -/
  buf : List Byte
  /-- The model's own: the host's events not yet answered; the head is the one presented (entry 1). -/
  inbox : List HostEvent
  /-- The model's own: all that the block has sent, oldest first (entry 2). -/
  out : List Output
  /-- The model's own: the index of the next free value (entry 5). -/
  freeIx : Nat
deriving DecidableEq, Repr

/-- Why the machine stops. -/
inductive Fault where
  /-- Raised by FEED and FEED_BYTE when `E = 0`: "FEED's loop has no end" (spec/10_state.md rule R24,
  spec/93_implementation_defined.md U9). Safe: the machine stops where the spec gives no end. `step` never
  raises it, since it refuses such a configuration first. -/
  | drainNeverEnds
deriving DecidableEq, Repr

/-- Why the model gives no step. -/
inductive Refusal where
  /-- Raised by an arm of `exec` whose instruction has no meaning yet. Safe. No arm raises it now. -/
  | notModelled (mnemonic : String)
  /-- Raised by WORD_TO_BYTES, ENCODE and SEQ_TO_BYTES when a word has a bit set at or above `CFG.W`: refused,
  no result claimed (spec/40_word_assembler.md rule R104, U6). Safe: nothing is claimed. -/
  | invalidWord
  /-- Raised by FEED and FEED_BYTE when the buffer would exceed `CFG.BUF_CAP` (spec/43_message_reassembler.md
  rule R199, U11). Safe: nothing is claimed. -/
  | bufferCapacity
  /-- Raised by `step` when a hard reset brings, or the state holds, a configuration that is not well formed: there
  is no instance and no operation may follow (spec/70_reset_and_hazards.md rule R262, U13). Safe. -/
  | malformedConfiguration
deriving DecidableEq, Repr

/-- The configuration of the instance in `State.reset`: the spec's default where it has one. `W`, `ORDER` and `N` are
arguments without a default: the values here are those of WP's scenario S9 (entry 3, DESIGN CHOICE); `PAIR_ORDER`
stays open (entry 4). -/
def State.resetConfig : Config where
  wordSize := .w16
  order := .big
  expectedWordCount := 3
  pairOrder := Config.pairOrderAtReset

/-- The machine right after hard reset (spec/70_reset_and_hazards.md rule R261): the buffer empty, nothing
presented, nothing sent. -/
def State.reset : State where
  cfg := State.resetConfig
  buf := []
  inbox := []
  out := []
  freeIx := 0

end Sys2Proof.Machine
end

