-- ==== Sys2Proof/Machine/Ops.lean ====
section
/-! DEFINITION. The named operations: what is computed from a configuration, bits of a container, byte order, and the
writes of the state. Raising an error is ONE operation, `State.raise` (spec/60_exceptions.md rule R232). There is no
return from an error to put beside it (rule R243). -/

namespace Sys2Proof.Machine

/-! What follows from a configuration (spec/00_scope.md rules R7, R8). -/

/-- `CFG.W` in bits (spec/10_state.md rule R21). -/
def wordBits (c : Config) : Nat :=
  match c.wordSize with
  | .w16 => 16
  | .w32 => 32
  | .w64 => 64

/-- `B = W / 8` (rule R8). -/
def byteWidth (c : Config) : Nat := wordBits c / 8

/-- `E = N * B`, the transport bytes of one slice, whatever the framer (rule R8, spec/43_message_reassembler.md
rule R181). -/
def sliceBytes (c : Config) : Nat := c.expectedWordCount * byteWidth c

/-- The entry of a table under a key (spec/10_state.md rules R25, R26; keys are compared exactly, rule R74). -/
def lookupKey (table : List (Nat × α)) (key : Nat) : Option α :=
  match table with
  | [] => none
  | entry :: rest => if entry.1 = key then some entry.2 else lookupKey rest key

/-- The keys of a table are distinct (spec/10_state.md rule R25). -/
def keysDistinct : List (Nat × α) → Bool
  | [] => true
  | entry :: rest => rest.all (fun other => other.1 != entry.1) && keysDistinct rest

/-- A configuration a hard reset accepts (spec/70_reset_and_hazards.md rule R262). -/
def configOk (c : Config) : Bool :=
  decide (1 ≤ c.expectedWordCount)
    && decide (sliceBytes c < 2 ^ 64)
    && c.fields.all (fun entry => decide (entry.2.startWordIndex ≤ entry.2.endWordIndex))
    && keysDistinct c.fields
    && keysDistinct c.bitFields

/-! Bits of a container (spec/00_scope.md section 5.1). -/

/-- `mask(n)`, `mask(64)` being a constant and no shift (rule R9). -/
def mask (n : Nat) : Word :=
  if n = 64 then 0xFFFFFFFFFFFFFFFF else BitVec.ofNat 64 (2 ^ n - 1)

/-- `bit(v, i)`. -/
def bitAt (v : Word) (i : Nat) : Bool := v.getLsbD i

/-- The Word invariant `0 <= w < 2^CFG.W` (spec/10_state.md rule R33). -/
def validWord (c : Config) (w : Word) : Bool := decide (w.toNat < 2 ^ wordBits c)

/-! Byte order (spec/20_memory.md rules R52, R54). -/

/-- The fold of rule R52: `result <- (result << 8) | byte`, first byte first. -/
def foldBytes (win : List Byte) : Word :=
  win.foldl (fun result b => (result <<< 8) ||| b.setWidth 64) 0

/-- Rule R52: Big folds left to right, Little right to left. -/
def assemble (order : ByteOrder) (win : List Byte) : Word :=
  match order with
  | .big => foldBytes win
  | .little => foldBytes win.reverse

/-- `(w >> (8*k)) & 0xFF` (rule R54). -/
def byteOfWord (w : Word) (k : Nat) : Byte := ((w >>> (8 * k)) &&& 0xFF).setWidth 8

/-- Rule R54: exactly `n` bytes, most significant first for Big, least significant first for Little. -/
def disassemble (order : ByteOrder) (n : Nat) (w : Word) : List Byte :=
  match order with
  | .big => (List.range n).map fun j => byteOfWord w (n - 1 - j)
  | .little => (List.range n).map fun j => byteOfWord w j

/-! Codes of a response (spec/60_exceptions.md rules R231, R236). -/

/-- `STATUS` of an error (rule R231). -/
def statusCode : OpError → BitVec 8
  | .alignment => 1
  | .bounds => 2
  | .rangeSize => 3
  | .framing _ _ => 4
  | .unknownField => 5
  | .insufficientBits => 6

/-- `STATUS` of an illegal command (rules R231, R239). -/
def illegalStatus : BitVec 8 := 7

/-- `INFO.SUBCAUSE` (rule R236). -/
def subCauseCode : SubCause → Nat
  | .startBit => 1
  | .stopBit => 2
  | .oddLength => 3

/-- `INFO` of an error: sub-cause in bits 1:0, the symbol index cut to 30 bits in bits 31:2; 0 but for FramingError
(rule R236). -/
def infoWord : OpError → BitVec 32
  | .framing sub symbol => BitVec.ofNat 32 (subCauseCode sub + 4 * (symbol % 2 ^ 30))
  | _ => 0

/-! Writes of the state. -/

/-- The buffer is written as a whole (spec/45_operation_laws.md rule R226). -/
def State.setBuf (s : State) (bytes : List Byte) : State := { s with buf := bytes }

/-- The free value at `freeIx` has been used (entry 5 of the log). -/
def State.useFree (s : State) : State := { s with freeIx := s.freeIx + 1 }

/-- MSG_OUT events, in order (spec/43_message_reassembler.md rule R198). -/
def State.signal (s : State) (ms : List Message) : State := { s with out := s.out ++ ms.map .msgOut }

/-- The response to the command presented, which the host then has answered (spec/30_encoding.md rule R70). -/
def State.respond (s : State) (r : Response) : State :=
  { s with inbox := s.inbox.tail, out := s.out ++ [.response r] }

/-- `return v`: STATUS 0, INFO 0 (spec/30_encoding.md rule R75). -/
def State.answerOk (s : State) (v : Result) : State := s.respond ⟨0, 0, some v⟩

/-- `raise K(info)`: taking an error. The response has the code of the kind, its INFO and no result; the rest of the
state is what it was (spec/60_exceptions.md rule R232). -/
def State.raise (s : State) (e : OpError) : State := s.respond ⟨statusCode e, infoWord e, none⟩

/-- An illegal command is answered with STATUS 7 and changes no state (spec/30_encoding.md rule R82; entry 6). -/
def State.answerIllegal (s : State) : State := s.respond ⟨illegalStatus, 0, none⟩

/-- A pure operation ends: `return` or `raise`. -/
def State.answer (s : State) (r : Except OpError Result) : State :=
  match r with
  | .ok v => s.answerOk v
  | .error e => s.raise e

/-- Hard reset: a new instance with the configuration given and an empty buffer (spec/70_reset_and_hazards.md rules
R260, R261). What the host has sent and received stays the host's; the free values go on (entry 5). -/
def State.construct (s : State) (c : Config) : State :=
  { s with cfg := c, buf := [], inbox := s.inbox.tail }

/-- The host issues one more command, after those it has issued already (spec/30_encoding.md rule R70). -/
def State.submit (s : State) (word : Word) (payload : Payload) : State :=
  { s with inbox := s.inbox ++ [.command word payload] }

/-- The WordSequence the block makes of words (spec/10_state.md rule R34). -/
def wordSeqOf (c : Config) (ws : List Word) : WordSeq := ⟨ws, c.expectedWordCount, c.fields⟩

/-- How a WordSequence travels (spec/30_encoding.md rule R77). -/
def WordSeq.travel (m : WordSeq) : Message := ⟨m.words, m.expectedWordCount⟩

/-- `wordCount = len(words)` (spec/44_word_sequence.md rule R217). -/
def WordSeq.wordCount (m : WordSeq) : Nat := m.words.length

/-- `isValid()`, computed by either side (spec/10_state.md rule R34, spec/30_encoding.md rule R77). -/
def Message.isValid (m : Message) : Bool := decide (m.words.length = m.expectedWordCount)

end Sys2Proof.Machine
end

