-- ==== Sys2Proof/Machine/Operands.lean ====
section
/-! DEFINITION. The operand forms: every operation reads the payload of the command presented, of the one kind that
spec/30_encoding.md rule R80 lists for it; a payload of another kind makes the command illegal (rule R82), decided
before the operation starts (spec/60_exceptions.md rule R241). -/

namespace Sys2Proof.Machine

/-- How an operation can end. -/
abbrev Ending := Host.Outcome State Fault Refusal

/-- The payload of the command presented. -/
def payloadOf (s : State) : Payload :=
  match s.inbox with
  | .command _ p :: _ => p
  | _ => .nothing

/-- An operation over a byte sequence. -/
def withBytes (s : State) (body : List Byte → Ending) : Ending :=
  match payloadOf s with
  | .bytes bs => body bs
  | _ => .next s.answerIllegal

/-- An operation over a word sequence. -/
def withWords (s : State) (body : List Word → Ending) : Ending :=
  match payloadOf s with
  | .words ws => body ws
  | _ => .next s.answerIllegal

/-- An operation over a single word: a word sequence of length exactly 1 (rule R71). -/
def withWord (s : State) (body : Word → Ending) : Ending :=
  match payloadOf s with
  | .words [w] => body w
  | _ => .next s.answerIllegal

/-- An operation that takes no payload. -/
def withNothing (s : State) (body : Ending) : Ending :=
  match payloadOf s with
  | .nothing => body
  | _ => .next s.answerIllegal

/-- A payload is of the kind listed (rules R71, R80). -/
def payloadFits (kind : PayloadKind) (p : Payload) : Bool :=
  match kind, p with
  | .nothing, .nothing => true
  | .bytes, .bytes _ => true
  | .word, .words [_] => true
  | .words, .words _ => true
  | _, _ => false

/-- The payload of zeros of a kind: no bytes, no words, or the one word 0. -/
def zeroPayload : PayloadKind → Payload
  | .nothing => .nothing
  | .bytes => .bytes []
  | .word => .words [0]
  | .words => .words []

/-- The payload to present beside a command word: the one already presented where it is of the kind the word's
operation takes, else the payload of zeros. -/
def payloadFor (s : State) (word : Word) : Payload :=
  match decode word with
  | .ok i => if payloadFits (payloadKindOf i) (payloadOf s) then payloadOf s else zeroPayload (payloadKindOf i)
  | .error _ => payloadOf s

/-- The command word presented is replaced by `word`, with a payload its operation takes. -/
def presentWord (s : State) (word : Word) : State :=
  { s with inbox := .command word (payloadFor s word) :: s.inbox.tail }

end Sys2Proof.Machine
end

