-- ==== Sys2Proof/Machine/BitFieldExtractor.lean ====
section
/-! DEFINITION. The BitFieldExtractor's fourteen operations (spec/42_bitfield_extractor.md). They take 64-bit
containers as given and look at `CFG.W` only where a rule says so (rule R140, spec/70_reset_and_hazards.md
rule R276). -/

namespace Sys2Proof.Machine

/-! Single words. -/

/-- `extract_bits` (rule R141): `(word >> startBit) & mask(bitCount)`, the bound being the container's 64. -/
def extractBits (word : Word) (startBit bitCount : Nat) : Except OpError Word :=
  if bitCount = 0 ∨ startBit + bitCount > 64 then .error .rangeSize
  else .ok ((word >>> startBit) &&& mask bitCount)

/-- The sign fill of rule R143, narrowed to `T` bits: `sext_T(raw, n)`. -/
def signFill (T : Nat) (raw : Word) (n : Nat) : Word :=
  if bitAt raw (n - 1) then (raw ||| ~~~ mask n) &&& mask T else raw &&& mask T

/-- The zero fill of rule R143: `zext_T(raw)`. -/
def zeroFill (T : Nat) (raw : Word) : Word := raw &&& mask T

/-- The width `T` of a kind's pattern (spec/10_state.md rule R35). -/
def kindWidth : ValueKind → Nat
  | .int32 | .uint32 | .float32 => 32
  | .int16 | .uint16 => 16
  | .int8 | .uint8 => 8
  | .bool => 1
  | .float64 | .rawBits => 64

/-- `convert` (rule R168), a match over all ten kinds. -/
def convert (kind : ValueKind) (raw : Word) (n : Nat) : TypedValue :=
  match kind with
  | .int32 => ⟨.int32, signFill 32 raw n⟩
  | .int16 => ⟨.int16, signFill 16 raw n⟩
  | .int8 => ⟨.int8, signFill 8 raw n⟩
  | .uint32 => ⟨.uint32, zeroFill 32 raw⟩
  | .uint16 => ⟨.uint16, zeroFill 16 raw⟩
  | .uint8 => ⟨.uint8, zeroFill 8 raw⟩
  | .bool => ⟨.bool, raw⟩
  | .float32 => ⟨.float32, raw⟩
  | .float64 => ⟨.float64, raw⟩
  | .rawBits => ⟨.rawBits, raw⟩

/-- `typed_int` (rule R143) of one of the six integer kinds: RangeSizeError when the count is above the kind's
width too. -/
def typedInt (kind : ValueKind) (word : Word) (startBit bitCount : Nat) : Except OpError TypedValue :=
  if bitCount > kindWidth kind then .error .rangeSize
  else
    match extractBits word startBit bitCount with
    | .ok raw => .ok (convert kind raw bitCount)
    | .error e => .error e

/-- How a typed value travels: the `T`-bit pattern under zeros (spec/30_encoding.md rule R76). -/
def TypedValue.travel (v : TypedValue) : Result := .scalar v.bits

/-- `signed_T` (spec/00_scope.md section 5.1). -/
def signedOf (T : Nat) (p : Word) : Int :=
  if bitAt p (T - 1) then (p.toNat : Int) - 2 ^ T else p.toNat

/-- What a typed value denotes (spec/10_state.md rule R35). -/
def TypedValue.denotes (v : TypedValue) : Denotation :=
  match v.kind with
  | .int32 => .integer (signedOf 32 v.bits)
  | .int16 => .integer (signedOf 16 v.bits)
  | .int8 => .integer (signedOf 8 v.bits)
  | .uint32 | .uint16 | .uint8 => .integer v.bits.toNat
  | .bool => .truth (bitAt v.bits 0)
  | .float32 => .binary32 (v.bits.setWidth 32)
  | .float64 => .binary64 v.bits
  | .rawBits => .unsigned v.bits.toNat

/-- Sign, biased exponent and fraction of a binary32 pattern (rule R155, PRESUMED: the spec marks it as general
knowledge; no operation looks at them; entry 12). -/
def binary32Fields (p : BitVec 32) : Bool × BitVec 8 × BitVec 23 :=
  (p.getLsbD 31, p.extractLsb' 23 8, p.extractLsb' 0 23)

/-- Sign, biased exponent and fraction of a binary64 pattern (rule R155, PRESUMED, entry 12). -/
def binary64Fields (p : BitVec 64) : Bool × BitVec 11 × BitVec 52 :=
  (p.getLsbD 63, p.extractLsb' 52 11, p.extractLsb' 0 52)

/-! Several words. -/

/-- `detect_width` (rule R161): 16 for the word 0, else the number of bits needed, rounded up to 8, 16, 32
or 64. -/
def detectWidth (v : Word) : Nat :=
  if v = 0 then 16
  else
    let n := Nat.log2 v.toNat + 1
    if n ≤ 8 then 8 else if n ≤ 16 then 16 else if n ≤ 32 then 32 else 64

/-- `word_width` (rule R160), of the first addressed word. -/
def wordWidth (c : Config) (first : Word) : Nat :=
  match c.widthMode with
  | .configured => wordBits c
  | .heuristic => detectWidth first

/-- The walk of rule R162 over the words that are left: chunks are packed least-significant first, and
InsufficientBitsError is raised where the words run out. -/
def walkWords (bitCount width : Nat) : List Word → Nat → Nat → Word → Except OpError Word
  | [], gathered, _, result => if gathered < bitCount then .error .insufficientBits else .ok result
  | w :: rest, gathered, currentBit, result =>
    if gathered < bitCount then
      let count := min (bitCount - gathered) (width - currentBit)
      match extractBits w currentBit count with
      | .ok chunk => walkWords bitCount width rest (gathered + count) 0 (result ||| (chunk <<< gathered))
      | .error e => .error e
    else .ok result

/-- `extract_across` (rule R162), `width` being a function of the first addressed word; the checks in the
rule's order. -/
def extractAcross (ws : List Word) (startWordIndex startBit bitCount : Nat) (widthOf : Word → Nat) :
    Except OpError Word :=
  if bitCount = 0 ∨ bitCount > 64 then .error .rangeSize
  else
    match ws.drop startWordIndex with
    | [] => .error .bounds
    | first :: rest =>
      if startBit ≥ widthOf first then .error .rangeSize
      else walkWords bitCount (widthOf first) (first :: rest) 0 startBit 0

/-- EXTRACT_RANGE's body (rule R166): the total is an integer, tested before any use. -/
def extractRange (c : Config) (ws : List Word) (first last startBit : Nat) : Except OpError Word :=
  if first > last then .error .bounds
  else if last ≥ ws.length then .error .bounds
  else
    match ws.drop first with
    | [] => .error .bounds
    | w :: _ =>
      let width := wordWidth c w
      let total : Int := ((last : Int) - first + 1) * width - startBit
      if total ≤ 0 ∨ total > 64 then .error .rangeSize
      else extractAcross ws first startBit total.toNat (fun _ => width)

/-- Step 1 of rule R169: the bit-count contract of a kind. -/
def contractHolds (kind : ValueKind) (n : Nat) : Bool :=
  match kind with
  | .bool => decide (n = 1)
  | .float32 => decide (n = 32)
  | .float64 => decide (n = 64)
  | .int32 | .uint32 => decide (n ≠ 0 ∧ n ≤ 32)
  | .int16 | .uint16 => decide (n ≠ 0 ∧ n ≤ 16)
  | .int8 | .uint8 => decide (n ≠ 0 ∧ n ≤ 8)
  | .rawBits => decide (n ≠ 0 ∧ n ≤ 64)

/-- Step 4 of rule R169: one word where the field fits it, else the walk at width `CFG.W`, whatever
`CFG.WIDTH_MODE` is. -/
def fetchField (c : Config) (ws : List Word) (word : Word) (f : BitFieldSpec) : Except OpError Word :=
  if f.startBit + f.bitCount ≤ wordBits c then extractBits word f.startBit f.bitCount
  else extractAcross ws f.wordIndex f.startBit f.bitCount (fun _ => wordBits c)

/-- `extract_field` (rule R169), its checks in the rule's order. -/
def extractField (c : Config) (ws : List Word) (f : BitFieldSpec) : Except OpError TypedValue :=
  if contractHolds f.kind f.bitCount then
    match ws.drop f.wordIndex with
    | [] => .error .bounds
    | word :: _ =>
      if f.startBit ≥ wordBits c then .error .rangeSize
      else
        match fetchField c ws word f with
        | .ok raw => .ok (convert f.kind raw f.bitCount)
        | .error e => .error e
  else .error .rangeSize

/-- EXTRACT_NAMED's body (rule R171): UnknownFieldError first. -/
def extractNamed (c : Config) (ws : List Word) (key : Nat) : Except OpError TypedValue :=
  match lookupKey c.bitFields key with
  | none => .error .unknownField
  | some f => extractField c ws f

/-! The operations. -/

/-- EXTRACT_BITS (rule R141). -/
def execExtractBits (p n : Nat) (s : State) : Ending :=
  withWord s fun w => .next (s.answer ((extractBits w p n).map .scalar))

/-- The shape shared by the six typed integer extractors. -/
def answerTyped (s : State) (r : Except OpError TypedValue) : Ending :=
  .next (s.answer (r.map TypedValue.travel))

/-- EXTRACT_INT8 (rule R144). -/
def execExtractInt8 (p n : Nat) (s : State) : Ending :=
  withWord s fun w => answerTyped s (typedInt .int8 w p n)

/-- EXTRACT_INT16 (rule R145). -/
def execExtractInt16 (p n : Nat) (s : State) : Ending :=
  withWord s fun w => answerTyped s (typedInt .int16 w p n)

/-- EXTRACT_INT32 (rule R146). -/
def execExtractInt32 (p n : Nat) (s : State) : Ending :=
  withWord s fun w => answerTyped s (typedInt .int32 w p n)

/-- EXTRACT_UINT8 (rule R147). -/
def execExtractUint8 (p n : Nat) (s : State) : Ending :=
  withWord s fun w => answerTyped s (typedInt .uint8 w p n)

/-- EXTRACT_UINT16 (rule R148). -/
def execExtractUint16 (p n : Nat) (s : State) : Ending :=
  withWord s fun w => answerTyped s (typedInt .uint16 w p n)

/-- EXTRACT_UINT32 (rule R149). -/
def execExtractUint32 (p n : Nat) (s : State) : Ending :=
  withWord s fun w => answerTyped s (typedInt .uint32 w p n)

/-- EXTRACT_BOOL (rule R151). -/
def execExtractBool (p : Nat) (s : State) : Ending :=
  withWord s fun w => .next (s.answer ((extractBits w p 1).map fun raw => .boolean (raw == 1)))

/-- EXTRACT_FLOAT32 (rule R153): the pattern unchanged (rule R156). -/
def execExtractFloat32 (p : Nat) (s : State) : Ending :=
  withWord s fun w => answerTyped s ((extractBits w p 32).map fun raw => ⟨.float32, raw⟩)

/-- EXTRACT_FLOAT64 (rule R154): the pattern unchanged (rule R156). -/
def execExtractFloat64 (p : Nat) (s : State) : Ending :=
  withWord s fun w => answerTyped s ((extractBits w p 64).map fun raw => ⟨.float64, raw⟩)

/-- EXTRACT_ACROSS (rule R162). -/
def execExtractAcross (i p n : Nat) (s : State) : Ending :=
  withWords s fun ws => .next (s.answer ((extractAcross ws i p n (wordWidth s.cfg)).map .scalar))

/-- EXTRACT_RANGE (rule R166). -/
def execExtractRange (i j p : Nat) (s : State) : Ending :=
  withWords s fun ws => .next (s.answer ((extractRange s.cfg ws i j p).map .scalar))

/-- EXTRACT_FIELD (rule R169). -/
def execExtractField (i p n : Nat) (kind : ValueKind) (s : State) : Ending :=
  withWords s fun ws => answerTyped s (extractField s.cfg ws ⟨i, p, n, kind⟩)

/-- EXTRACT_NAMED (rule R171). -/
def execExtractNamed (key : Nat) (s : State) : Ending :=
  withWords s fun ws => answerTyped s (extractNamed s.cfg ws key)

end Sys2Proof.Machine
end

