-- ==== Sys2Proof/Machine/Flags.lean ====
section
/-! DEFINITION. The derived status and the read-only register view (spec/10_state.md rules R31, R36). `HASMSG` is the
block's only flag; nothing is stored for it. -/

namespace Sys2Proof.Machine

/-- `BUFLEN = len(buf)` (rule R31). -/
def bufLen (s : State) : Nat := s.buf.length

/-- `HASMSG`, WP's hasCompleteMessage: `len(buf) >= E` (rule R31). -/
def hasMsg (s : State) : Bool := decide (sliceBytes s.cfg ≤ s.buf.length)

/-- `CFG0.WSIZE`, bits 1:0. -/
def wordSizeCode : WordSize → Nat
  | .w16 => 0
  | .w32 => 1
  | .w64 => 2

/-- `CFG0.BORDER`, bit 2. -/
def orderCode : ByteOrder → Nat
  | .big => 0
  | .little => 1

/-- `CFG0.FRAMER`, bit 3. -/
def framerCode : Framer → Nat
  | .passthrough => 0
  | .standardMode => 1

/-- `CFG0.WIDTHMODE`, bit 4. -/
def widthModeCode : WidthMode → Nat
  | .configured => 0
  | .heuristic => 1

/-- `CFG0.PAIRORDER`, bit 5. -/
def pairOrderCode : PairOrder → Nat
  | .loFirst => 0
  | .hiFirst => 1

/-- `CFG0.FAILPOL`, bits 8:7. -/
def policyCode : FeedFailPolicy → Nat
  | .any => 0
  | .keepAll => 1
  | .dropDecoded => 2
  | .dropFailing => 3

/-- The register `CFG0` (rule R36); bits 63:9 read as 0. -/
def cfg0Value (c : Config) : Word :=
  BitVec.ofNat 64 (wordSizeCode c.wordSize)
    ||| (BitVec.ofNat 64 (orderCode c.order) <<< 2)
    ||| (BitVec.ofNat 64 (framerCode c.framer) <<< 3)
    ||| (BitVec.ofNat 64 (widthModeCode c.widthMode) <<< 4)
    ||| (BitVec.ofNat 64 (pairOrderCode c.pairOrder) <<< 5)
    ||| (BitVec.ofNat 64 c.stream.toNat <<< 6)
    ||| (BitVec.ofNat 64 (policyCode c.feedFailPolicy) <<< 7)

/-- The eight registers (rule R36), counts read modulo `2^64`; `BUFCAP` is all ones when unbounded. -/
def csrValue (s : State) : Csr → Word
  | .cfg0 => cfg0Value s.cfg
  | .expwc => BitVec.ofNat 64 s.cfg.expectedWordCount
  | .expbytes => BitVec.ofNat 64 (sliceBytes s.cfg)
  | .buflen => BitVec.ofNat 64 (bufLen s)
  | .status => BitVec.ofNat 64 (hasMsg s).toNat
  | .nfields => BitVec.ofNat 64 s.cfg.fields.length
  | .nbitfields => BitVec.ofNat 64 s.cfg.bitFields.length
  | .bufcap =>
    match s.cfg.bufCap with
    | some cap => BitVec.ofNat 64 cap
    | none => 0xFFFFFFFFFFFFFFFF

end Sys2Proof.Machine
end

