-- ==== Sys2Proof/Machine/ProtocolFramer.lean ====
section
/-! DEFINITION. FR_EXTRACT, FR_ENCODE, FR_VALIDATE and the functions behind them (spec/41_protocol_framer.md). -/

namespace Sys2Proof.Machine

/-- The 16-bit value of a pair, `b0` the earlier byte (rule R122). -/
def pairValue (order : PairOrder) (b0 b1 : Byte) : BitVec 16 :=
  match order with
  | .loFirst => b0.setWidth 16 ||| (b1.setWidth 16 <<< 8)
  | .hiFirst => b1.setWidth 16 ||| (b0.setWidth 16 <<< 8)

/-- The start bit, symbol bit 0 (rule R121). -/
def startBitOf (v : BitVec 16) : Bool := v.getLsbD 0

/-- The stop bit, symbol bit 9 (rule R121). -/
def stopBitOf (v : BitVec 16) : Bool := v.getLsbD 9

/-- The data byte, symbol bits 8:1 (rule R121). -/
def symbolData (v : BitVec 16) : Byte := v.extractLsb' 1 8

/-- The loop of rule R123 from symbol `k` on: the first bad symbol is reported, start bit before stop bit
(rule R124); bits 15:10 are not looked at (rule R125). -/
def extractSymbols (order : PairOrder) : Nat → List Byte → Except OpError (List Byte)
  | k, b0 :: b1 :: rest =>
    let v := pairValue order b0 b1
    if startBitOf v then .error (.framing .startBit k)
    else if stopBitOf v then
      match extractSymbols order (k + 1) rest with
      | .ok data => .ok (symbolData v :: data)
      | .error e => .error e
    else .error (.framing .stopBit k)
  | _, _ => .ok []

/-- `framer_extract` (rule R123): the length first, then the symbols (rule R124). -/
def framerExtract (c : Config) (t : List Byte) : Except OpError (List Byte) :=
  match c.framer with
  | .passthrough => .ok t
  | .standardMode =>
    if t.length % 2 ≠ 0 then .error (.framing .oddLength (t.length / 2))
    else extractSymbols c.pairOrder 0 t

/-- The 10-bit symbol of a data byte, `(d << 1) | 0x200` (rules R121, R127). -/
def symbolOf (d : Byte) : BitVec 16 := (d.setWidth 16 <<< 1) ||| 0x200

/-- The two transport bytes of a data byte (rule R127). -/
def encodeSymbol (order : PairOrder) (d : Byte) : List Byte :=
  let v := symbolOf d
  match order with
  | .loFirst => [v.extractLsb' 0 8, v.extractLsb' 8 8]
  | .hiFirst => [v.extractLsb' 8 8, v.extractLsb' 0 8]

/-- `framer_encode` (rule R127). -/
def framerEncode (c : Config) (d : List Byte) : List Byte :=
  match c.framer with
  | .passthrough => d
  | .standardMode => d.flatMap (encodeSymbol c.pairOrder)

/-- Every symbol has start bit 0 and stop bit 1 (rule R129). -/
def symbolsGood (order : PairOrder) : List Byte → Bool
  | b0 :: b1 :: rest =>
    !startBitOf (pairValue order b0 b1) && stopBitOf (pairValue order b0 b1) && symbolsGood order rest
  | _ => true

/-- `framer_validate` (rule R129). -/
def framerValidate (c : Config) (t : List Byte) : Bool :=
  match c.framer with
  | .passthrough => true
  | .standardMode => if t.length % 2 ≠ 0 then false else symbolsGood c.pairOrder t

/-- FR_EXTRACT (rule R123). -/
def execFrExtract (s : State) : Ending :=
  withBytes s fun t => .next (s.answer ((framerExtract s.cfg t).map .bytes))

/-- FR_ENCODE (rule R127). -/
def execFrEncode (s : State) : Ending :=
  withBytes s fun d => .next (s.answerOk (.bytes (framerEncode s.cfg d)))

/-- FR_VALIDATE (rule R129). -/
def execFrValidate (s : State) : Ending :=
  withBytes s fun t => .next (s.answerOk (.boolean (framerValidate s.cfg t)))

end Sys2Proof.Machine
end

