-- ==== Sys2Proof/Machine/WordAssembler.lean ====
section
/-! DEFINITION. EXTRACT_WORDS, WORD_TO_BYTES, BYTES_TO_WORD, VALIDATE (spec/40_word_assembler.md). -/

namespace Sys2Proof.Machine

/-- The window of `len` elements from `start`. -/
def window (start len : Nat) (l : List α) : List α := (l.drop start).take len

/-- The length of a byte sequence is a multiple of `B` (spec/20_memory.md rule R58). -/
def aligned (c : Config) (bs : List Byte) : Bool := decide (bs.length % byteWidth c = 0)

/-- Rule R101: AlignmentError, or one word from each window of `B` bytes. -/
def extractWords (c : Config) (bs : List Byte) : Except OpError (List Word) :=
  if aligned c bs then
    .ok ((List.range (bs.length / byteWidth c)).map fun i =>
      assemble c.order (window (i * byteWidth c) (byteWidth c) bs))
  else .error .alignment

/-- Rule R104 on a valid Word: exactly `B` bytes. -/
def wordToBytes (c : Config) (w : Word) : List Byte := disassemble c.order (byteWidth c) w

/-- Rule R105: BoundsError when fewer than `B` bytes remain. -/
def bytesToWord (c : Config) (bs : List Byte) (offset : Nat) : Except OpError Word :=
  if offset + byteWidth c > bs.length then .error .bounds
  else .ok (assemble c.order (window offset (byteWidth c) bs))

/-- Rule R107: framer validation, then alignment of the data bytes. -/
def validateBytes (c : Config) (t : List Byte) : Bool :=
  if framerValidate c t then
    match framerExtract c t with
    | .ok data => aligned c data
    | .error _ => false
  else false

/-- EXTRACT_WORDS (rule R101): the framer is not applied. -/
def execExtractWords (s : State) : Ending :=
  withBytes s fun bs => .next (s.answer ((extractWords s.cfg bs).map .words))

/-- WORD_TO_BYTES (rule R104): a word that is not a valid Word is refused (entry 7). -/
def execWordToBytes (s : State) : Ending :=
  withWord s fun w =>
    if validWord s.cfg w then .next (s.answerOk (.bytes (wordToBytes s.cfg w)))
    else .refused .invalidWord

/-- BYTES_TO_WORD (rule R105). -/
def execBytesToWord (offset : Nat) (s : State) : Ending :=
  withBytes s fun bs => .next (s.answer ((bytesToWord s.cfg bs offset).map .scalar))

/-- VALIDATE (rule R107): it never fails. -/
def execValidate (s : State) : Ending :=
  withBytes s fun t => .next (s.answerOk (.boolean (validateBytes s.cfg t)))

end Sys2Proof.Machine
end

