-- ==== Sys2Proof/Machine/MessageReassembler.lean ====
section
/-! DEFINITION. FEED, FEED_BYTE, PEEK, POLL, RESET and the decoding of a slice (spec/43_message_reassembler.md). -/

namespace Sys2Proof.Machine

/-- The pipeline of spec/44_word_sequence.md rule R211: framer, then words, then a WordSequence. -/
def decodeBytes (c : Config) (t : List Byte) : Except OpError WordSeq :=
  match framerExtract c t with
  | .error e => .error e
  | .ok data =>
    match extractWords c data with
    | .error e => .error e
    | .ok ws => .ok (wordSeqOf c ws)

/-- `decode_slice` (rule R181): a slice is `E` transport bytes. -/
def decodeSlice (c : Config) (slice : List Byte) : Except OpError WordSeq := decodeBytes c slice

/-- The loop of FEED (rule R183) over at most `k` slices: the messages decoded, in order, and the error of the first
slice that does not decode. -/
def decodeSlices (c : Config) : Nat → List Byte → List WordSeq × Option OpError
  | 0, _ => ([], none)
  | k + 1, rest =>
    match decodeSlice c (rest.take (sliceBytes c)) with
    | .error e => ([], some e)
    | .ok m =>
      let more := decodeSlices c k (rest.drop (sliceBytes c))
      (m :: more.1, more.2)

/-- How many slices have left the buffer after a failure with `m` slices decoded (rules R186, R194). Under Any the
number is a free value from 0 to `m + 1` (entry 5). -/
def slicesDropped (c : Config) (ix m : Nat) : Nat :=
  match c.feedFailPolicy with
  | .keepAll => 0
  | .dropDecoded => m
  | .dropFailing => m + 1
  | .any => Config.freeCut ix % (m + 2)

/-- `fail_buffer` (rule R186). -/
def failBuffer (c : Config) (ix m : Nat) (all : List Byte) : List Byte :=
  all.drop (slicesDropped c ix m * sliceBytes c)

/-- `CFG.BUF_CAP` allows that many bytes in the buffer (rule R199). -/
def withinCapacity (c : Config) (n : Nat) : Bool :=
  match c.bufCap with
  | none => true
  | some cap => decide (n ≤ cap)

/-- The MSG_OUT events of a FEED that returns OK (rule R198). -/
def State.stream (s : State) (ms : List Message) : State := if s.cfg.stream then s.signal ms else s

/-- The MSG_OUT events of a FEED that fails: none or all, a free value (rule R198, entry 5). -/
def State.streamFailed (s : State) (ms : List Message) : State :=
  if s.cfg.stream && Config.freeSignalled s.freeIx then s.signal ms else s

/-- FEED's body (rule R183): the chunk is appended, every whole slice is decoded, the remainder stays. -/
def feedBytes (s : State) (chunk : List Byte) : Ending :=
  let all := s.buf ++ chunk
  let E := sliceBytes s.cfg
  if E = 0 then .fault .drainNeverEnds
  else if withinCapacity s.cfg all.length then
    let decoded := decodeSlices s.cfg (all.length / E) all
    let messages := decoded.1.map WordSeq.travel
    match decoded.2 with
    | none =>
      .next (((s.setBuf (all.drop (messages.length * E))).stream messages).answerOk (.messages messages))
    | some e =>
      .next ((((s.setBuf (failBuffer s.cfg s.freeIx messages.length all)).streamFailed messages).useFree).raise e)
  else .refused .bufferCapacity

/-- FEED (rule R183). -/
def execFeed (s : State) : Ending := withBytes s fun chunk => feedBytes s chunk

/-- FEED_BYTE (rule R188): FEED of the one byte, in every respect. -/
def execFeedByte (byte : Byte) (s : State) : Ending := withNothing s (feedBytes s [byte])

/-- PEEK (rule R190): the buffer is not changed, even on an error. -/
def execPeek (s : State) : Ending :=
  withNothing s <|
    if hasMsg s then
      .next (s.answer ((decodeSlice s.cfg (s.buf.take (sliceBytes s.cfg))).map fun m => .message m.travel))
    else .next (s.answerOk .noMessage)

/-- POLL (rules R192, R194): one slice at most leaves the buffer. -/
def execPoll (s : State) : Ending :=
  withNothing s <|
    if hasMsg s then
      match decodeSlice s.cfg (s.buf.take (sliceBytes s.cfg)) with
      | .ok m => .next ((s.setBuf (s.buf.drop (sliceBytes s.cfg))).answerOk (.message m.travel))
      | .error e => .next (((s.setBuf (failBuffer s.cfg s.freeIx 0 s.buf)).useFree).raise e)
    else .next (s.answerOk .noMessage)

/-- RESET (rule R196): the buffered bytes are discarded; the configuration is not touched. -/
def execReset (s : State) : Ending := withNothing s (.next ((s.setBuf []).answerOk .nothing))

end Sys2Proof.Machine
end

