-- ==== Sys2Proof/Machine/WordSequence.lean ====
section
/-! DEFINITION. DECODE, ENCODE, SEQ_TO_BYTES, SEQ_VALID, GET_FIELD, GET_FIELD_RANGE, RDCSR
(spec/44_word_sequence.md). A words payload stands for a WordSequence with `CFG.N` and `CFG.FIELDS` (rule R210). -/

namespace Sys2Proof.Machine

/-- SEQ_TO_BYTES' body (rule R215): the data bytes, without framing. -/
def seqToBytes (c : Config) (ws : List Word) : List Byte := ws.flatMap (wordToBytes c)

/-- ENCODE's body (rule R213). -/
def encodeWords (c : Config) (ws : List Word) : List Byte := framerEncode c (seqToBytes c ws)

/-- GET_FIELD's body (rule R218): UnknownFieldError, then BoundsError. DESIGN CHOICE (entry 15): a payload word with a bit
set at or above `CFG.W` is returned as it was given. -/
def getField (c : Config) (ws : List Word) (key : Nat) : Except OpError Word :=
  match lookupKey c.fields key with
  | none => .error .unknownField
  | some f =>
    match ws.drop f.startWordIndex with
    | [] => .error .bounds
    | w :: _ => .ok w

/-- GET_FIELD_RANGE's body (rule R219); `endWordIndex` is inclusive. DESIGN CHOICE (entry 15): a payload word with a bit
set at or above `CFG.W` is returned as it was given. -/
def getFieldRange (c : Config) (ws : List Word) (key : Nat) : Except OpError (List Word) :=
  match lookupKey c.fields key with
  | none => .error .unknownField
  | some f =>
    if f.endWordIndex ≥ ws.length then .error .bounds
    else .ok (window f.startWordIndex (f.endWordIndex + 1 - f.startWordIndex) ws)

/-- DECODE (rule R211). -/
def execDecode (s : State) : Ending :=
  withBytes s fun t => .next (s.answer ((decodeBytes s.cfg t).map fun m => .message m.travel))

/-- ENCODE (rule R213): a sequence that holds an invalid Word is refused (entry 7). -/
def execEncode (s : State) : Ending :=
  withWords s fun ws =>
    if ws.all (validWord s.cfg) then .next (s.answerOk (.bytes (encodeWords s.cfg ws)))
    else .refused .invalidWord

/-- SEQ_TO_BYTES (rule R215): a sequence that holds an invalid Word is refused (entry 7). -/
def execSeqToBytes (s : State) : Ending :=
  withWords s fun ws =>
    if ws.all (validWord s.cfg) then .next (s.answerOk (.bytes (seqToBytes s.cfg ws)))
    else .refused .invalidWord

/-- SEQ_VALID (rule R216): the count alone. -/
def execSeqValid (s : State) : Ending :=
  withWords s fun ws => .next (s.answerOk (.boolean (wordSeqOf s.cfg ws).travel.isValid))

/-- GET_FIELD (rule R218). -/
def execGetField (key : Nat) (s : State) : Ending :=
  withWords s fun ws => .next (s.answer ((getField s.cfg ws key).map .scalar))

/-- GET_FIELD_RANGE (rule R219). -/
def execGetFieldRange (key : Nat) (s : State) : Ending :=
  withWords s fun ws => .next (s.answer ((getFieldRange s.cfg ws key).map .words))

/-- RDCSR (rule R220): a read without side effect. -/
def execRdcsr (csr : Csr) (s : State) : Ending := withNothing s (.next (s.answerOk (.scalar (csrValue s csr))))

end Sys2Proof.Machine
end

