-- ==== Sys2Proof/Machine/Dispatch.lean ====
section
/-! DEFINITION. One arm per operation of spec/30_encoding.md rule R80, in the table's order. -/

namespace Sys2Proof.Machine

def exec (i : Instr) (s : State) : Host.Outcome State Fault Refusal :=
  match i with
  | .extractWords => Sys2Proof.Machine.execExtractWords s
  | .wordToBytes => Sys2Proof.Machine.execWordToBytes s
  | .bytesToWord offset => Sys2Proof.Machine.execBytesToWord offset s
  | .validate => Sys2Proof.Machine.execValidate s
  | .frExtract => Sys2Proof.Machine.execFrExtract s
  | .frEncode => Sys2Proof.Machine.execFrEncode s
  | .frValidate => Sys2Proof.Machine.execFrValidate s
  | .extractBits p n => Sys2Proof.Machine.execExtractBits p n s
  | .extractInt8 p n => Sys2Proof.Machine.execExtractInt8 p n s
  | .extractInt16 p n => Sys2Proof.Machine.execExtractInt16 p n s
  | .extractInt32 p n => Sys2Proof.Machine.execExtractInt32 p n s
  | .extractUint8 p n => Sys2Proof.Machine.execExtractUint8 p n s
  | .extractUint16 p n => Sys2Proof.Machine.execExtractUint16 p n s
  | .extractUint32 p n => Sys2Proof.Machine.execExtractUint32 p n s
  | .extractBool p => Sys2Proof.Machine.execExtractBool p s
  | .extractFloat32 p => Sys2Proof.Machine.execExtractFloat32 p s
  | .extractFloat64 p => Sys2Proof.Machine.execExtractFloat64 p s
  | .extractAcross k p n => Sys2Proof.Machine.execExtractAcross k p n s
  | .extractRange k j p => Sys2Proof.Machine.execExtractRange k j p s
  | .extractField k p n kind => Sys2Proof.Machine.execExtractField k p n kind s
  | .extractNamed key => Sys2Proof.Machine.execExtractNamed key s
  | .feed => Sys2Proof.Machine.execFeed s
  | .feedByte byte => Sys2Proof.Machine.execFeedByte byte s
  | .peek => Sys2Proof.Machine.execPeek s
  | .poll => Sys2Proof.Machine.execPoll s
  | .reset => Sys2Proof.Machine.execReset s
  | .decode => Sys2Proof.Machine.execDecode s
  | .encode => Sys2Proof.Machine.execEncode s
  | .seqToBytes => Sys2Proof.Machine.execSeqToBytes s
  | .seqValid => Sys2Proof.Machine.execSeqValid s
  | .getField key => Sys2Proof.Machine.execGetField key s
  | .getFieldRange key => Sys2Proof.Machine.execGetFieldRange key s
  | .rdcsr csr => Sys2Proof.Machine.execRdcsr csr s

end Sys2Proof.Machine
end

