-- ==== Sys2Proof/Machine/Fetch.lean ====
section
/-! DEFINITION. What stands before the block: nothing, a command to run, an illegal command word, or a hard reset
(spec/30_encoding.md rules R70, R82; spec/70_reset_and_hazards.md rules R260, R262). -/

namespace Sys2Proof.Machine

/-- What `step` does with the event presented: run an instruction, or go to an ending fixed already. -/
inductive Fetched where
  | run (i : Instr)
  | ending (e : Ending)

/-- A hard reset (rules R260 to R262): refused when the configuration is not well formed. -/
def hardReset (s : State) (c : Config) : Ending :=
  if configOk c then .next (s.construct c) else .refused .malformedConfiguration

/-- The event presented. With none the block stands still (entry 1). Without a well-formed configuration there is no
instance and no operation may follow (rule R262). -/
def fetch (s : State) : Fetched :=
  match s.inbox with
  | [] => .ending (.next s)
  | .hardReset c :: _ => .ending (hardReset s c)
  | .command word _ :: _ =>
    if configOk s.cfg then
      match decode word with
      | .ok i => .run i
      | .error _ => .ending (.next s.answerIllegal)
    else .ending (.refused .malformedConfiguration)

end Sys2Proof.Machine
end

