-- ==== Sys2Proof/Machine/Step.lean ====
section
/-! DEFINITION. One step: the event presented is answered (spec/30_encoding.md rule R70, spec/20_memory.md rule R62). -/

namespace Sys2Proof.Machine

/-- One step of the machine. -/
def step (s : State) : Host.Outcome State Fault Refusal :=
  match fetch s with
  | .run i => exec i s
  | .ending e => e

/-- `s` with the command word whose low `nbits` bits are those of `w` presented, and with it a payload its operation
takes: the one presented already where it fits, else the payload of zeros. -/
def State.withFetchWord (s : State) (nbits w : Nat) : State := presentWord s (BitVec.ofNat 64 (w % 2 ^ nbits))

end Sys2Proof.Machine
end

