-- ==== Sys2Proof/Safety.lean ====
section
/-! DEFINITION. The terms the claims are written in: what a presented command and its answer are, the closed forms the
rules print beside their loops (sums of powers, divisions and remainders of natural numbers, none of the machine's
shifts and folds), the outcomes they give, and the invariants of a run. -/

namespace Sys2Proof.Safety

open Sys2Proof.Machine

/-! Commands and answers. -/

/-- The host has presented a command with the payload `p` (spec/30_encoding.md rule R71). -/
def presents (s : State) (p : Payload) : Prop := ∃ word rest, s.inbox = .command word p :: rest

/-- The next state of an operation that only answers: the command is answered, one response is sent, nothing else
changes. -/
def withResponse (s : State) (r : Response) : State :=
  { s with inbox := s.inbox.tail, out := s.out ++ [.response r] }

/-- STATUS 0, INFO 0 and a result (spec/30_encoding.md rule R75). -/
def answered (s : State) (v : Result) : State := withResponse s ⟨0, 0, some v⟩

/-- An error's STATUS and INFO, and no result (spec/60_exceptions.md rule R232). -/
def failed (s : State) (status : BitVec 8) (info : BitVec 32) : State := withResponse s ⟨status, info, none⟩

/-- The response sent last. -/
def lastResponse (s : State) : Option Response :=
  match s.out.getLast? with
  | some (.response r) => some r
  | _ => none

/-- A step that gives a next state. -/
def runsOn (s : State) : Prop := ∃ t, step s = .next t

/-! The opcode map (spec/opcode_table.json): the opcode, the payload, the operand bits of the word. -/

/-- One entry per row: opcode, payload kind, and the bits between `OP` and `RSV` that the row's encoding reads. -/
def opcodeRows : List (Nat × PayloadKind × Word) :=
  [(0x10, .bytes, 0x00000000000000), (0x11, .word, 0x00000000000000), (0x12, .bytes, 0x0000FFFF000000),
   (0x13, .bytes, 0x00000000000000), (0x20, .bytes, 0x00000000000000), (0x21, .bytes, 0x00000000000000),
   (0x22, .bytes, 0x00000000000000), (0x30, .word, 0x00000000FFFF00), (0x31, .word, 0x00000000FFFF00),
   (0x32, .word, 0x00000000FFFF00), (0x33, .word, 0x00000000FFFF00), (0x34, .word, 0x00000000FFFF00),
   (0x35, .word, 0x00000000FFFF00), (0x36, .word, 0x00000000FFFF00), (0x37, .word, 0x0000000000FF00),
   (0x38, .word, 0x0000000000FF00), (0x39, .word, 0x0000000000FF00), (0x3A, .words, 0x0000FFFFFFFF00),
   (0x3B, .words, 0xFFFFFFFF00FF00), (0x3C, .words, 0x000FFFFFFFFF00), (0x3D, .words, 0xFFFF0000000000),
   (0x40, .bytes, 0x00000000000000), (0x41, .nothing, 0x0000000000FF00), (0x42, .nothing, 0x00000000000000),
   (0x43, .nothing, 0x00000000000000), (0x44, .nothing, 0x00000000000000), (0x50, .bytes, 0x00000000000000),
   (0x51, .words, 0x00000000000000), (0x52, .words, 0x00000000000000), (0x53, .words, 0x00000000000000),
   (0x54, .words, 0xFFFF0000000000), (0x55, .words, 0xFFFF0000000000), (0x60, .nothing, 0x0000FFFF000000)]

/-- The word names no operation: the encoding clauses of spec/30_encoding.md rule R82. -/
def illegalWord (w : Word) : Prop :=
  (∀ row ∈ opcodeRows, w.toNat % 256 ≠ row.1)
    ∨ w.toNat / 2 ^ 56 ≠ 0
    ∨ (w.toNat % 256 = 0x3C ∧ 10 ≤ w.toNat / 2 ^ 40 % 16)
    ∨ (w.toNat % 256 = 0x60 ∧ 7 < w.toNat / 2 ^ 24 % 65536)

/-- The payload is of the kind a row lists (rules R71, R80): a single word is a word sequence of length 1. -/
def rightPayload : PayloadKind → Payload → Prop
  | .nothing, p => p = .nothing
  | .bytes, p => ∃ bs, p = .bytes bs
  | .word, p => ∃ w, p = .words [w]
  | .words, p => ∃ ws, p = .words ws

/-- The command is illegal (rule R82). -/
def illegalCommand (w : Word) (p : Payload) : Prop :=
  illegalWord w ∨ ∃ row ∈ opcodeRows, w.toNat % 256 = row.1 ∧ ¬ rightPayload row.2.1 p

/-- A configuration that a hard reset refuses: the list of spec/70_reset_and_hazards.md rule R262. -/
def malformed (c : Config) : Prop :=
  c.expectedWordCount = 0
    ∨ (∃ entry ∈ c.fields, entry.2.endWordIndex < entry.2.startWordIndex)
    ∨ ¬ (c.fields.map (·.1)).Nodup
    ∨ ¬ (c.bitFields.map (·.1)).Nodup
    ∨ 2 ^ 64 ≤ c.expectedWordCount * (wordBits c / 8)

/-! Bytes and words in closed form. -/

/-- Piece `i` of `n` elements. -/
def piece (l : List α) (i n : Nat) : List α := (l.drop (i * n)).take n

/-- `sum over j of win[j] * 2^(8*(n-1-j))` or `sum over j of win[j] * 2^(8*j)` (spec/20_memory.md rule R52). -/
def orderSum (order : ByteOrder) (win : List Byte) : Nat :=
  match order with
  | .big => ((List.range win.length).map fun j => (win.getD j 0).toNat * 2 ^ (8 * (win.length - 1 - j))).sum
  | .little => ((List.range win.length).map fun j => (win.getD j 0).toNat * 2 ^ (8 * j)).sum

/-- Byte `j` of the `n` bytes of a word (spec/20_memory.md rule R54). -/
def orderByte (order : ByteOrder) (n : Nat) (w : Word) (j : Nat) : Byte :=
  match order with
  | .big => BitVec.ofNat 8 (w.toNat / 2 ^ (8 * (n - 1 - j)))
  | .little => BitVec.ofNat 8 (w.toNat / 2 ^ (8 * j))

/-- The words of an aligned byte sequence (spec/40_word_assembler.md rule R101). -/
def wordsOf (c : Config) (bs : List Byte) : List Word :=
  (List.range (bs.length / byteWidth c)).map fun i => BitVec.ofNat 64 (orderSum c.order (piece bs i (byteWidth c)))

/-- The `B` bytes of each word in turn (spec/44_word_sequence.md rule R215). -/
def bytesOf (c : Config) (ws : List Word) : List Byte :=
  ws.flatMap fun w => (List.range (byteWidth c)).map (orderByte c.order (byteWidth c) w)

/-- Every word is below `2^CFG.W` (spec/10_state.md rule R33). -/
def allValid (c : Config) (ws : List Word) : Prop := ∀ w ∈ ws, w.toNat < 2 ^ wordBits c

/-! Framing in closed form. -/

/-- The value of pair `k` (spec/41_protocol_framer.md rule R122). -/
def pairAt (order : PairOrder) (t : List Byte) (k : Nat) : Nat :=
  match order with
  | .loFirst => (t.getD (2 * k) 0).toNat + 256 * (t.getD (2 * k + 1) 0).toNat
  | .hiFirst => (t.getD (2 * k + 1) 0).toNat + 256 * (t.getD (2 * k) 0).toNat

/-- Start bit 0 and stop bit 1 (rule R121). -/
def goodSymbol (v : Nat) : Prop := v % 2 = 0 ∧ v / 512 % 2 = 1

/-- An even length and every symbol good: what FR_VALIDATE tests in StandardMode (rule R129). -/
def wellFramed (order : PairOrder) (t : List Byte) : Prop :=
  t.length % 2 = 0 ∧ ∀ k < t.length / 2, goodSymbol (pairAt order t k)

/-- The data bytes of well framed transport bytes (rule R123). -/
def dataOf (order : PairOrder) (t : List Byte) : List Byte :=
  (List.range (t.length / 2)).map fun k => BitVec.ofNat 8 (pairAt order t k / 2)

/-- The transport bytes of data bytes (rule R127). -/
def framed (c : Config) (d : List Byte) : List Byte :=
  match c.framer with
  | .passthrough => d
  | .standardMode =>
    d.flatMap fun b =>
      let lo := BitVec.ofNat 8 ((2 * b.toNat + 512) % 256)
      let hi := BitVec.ofNat 8 ((2 * b.toNat + 512) / 256)
      match c.pairOrder with
      | .loFirst => [lo, hi]
      | .hiFirst => [hi, lo]

/-- What VALIDATE answers true for (spec/40_word_assembler.md rule R107). -/
def validTransport (c : Config) (t : List Byte) : Prop :=
  match c.framer with
  | .passthrough => t.length % byteWidth c = 0
  | .standardMode => wellFramed c.pairOrder t ∧ t.length / 2 % byteWidth c = 0

/-- `INFO` of a FramingError (spec/60_exceptions.md rule R236). -/
def framingInfo (subCause symbol : Nat) : BitVec 32 := BitVec.ofNat 32 (subCause + 4 * (symbol % 2 ^ 30))

/-! Bit fields in closed form. -/

/-- Bits `p` to `p + n - 1` of a number. -/
def bitsOf (v p n : Nat) : Nat := v / 2 ^ p % 2 ^ n

/-- The low `width` bits of each word, joined with the first word least significant (spec/42_bitfield_extractor.md
rules R163, R164). -/
def joined (width : Nat) (ws : List Word) : Nat :=
  ((List.range ws.length).map fun j => ((ws.getD j 0).toNat % 2 ^ width) * 2 ^ (width * j)).sum

/-- `sext_T` of an `n`-bit field, under zeros (rules R143, R168; spec/30_encoding.md rule R76). -/
def signedPattern (T n raw : Nat) : Word := ((BitVec.ofNat n raw).signExtend T).setWidth 64

/-- The pattern of a kind (rule R168). -/
def kindPattern (kind : ValueKind) (n raw : Nat) : Word :=
  match kind with
  | .int32 => signedPattern 32 n raw
  | .int16 => signedPattern 16 n raw
  | .int8 => signedPattern 8 n raw
  | _ => BitVec.ofNat 64 raw

/-- The counts a kind allows (rule R169, step 1). -/
def countAllowed : ValueKind → Nat → Bool
  | .bool, n => decide (n = 1)
  | .float32, n => decide (n = 32)
  | .float64, n => decide (n = 64)
  | .int32, n | .uint32, n => decide (1 ≤ n ∧ n ≤ 32)
  | .int16, n | .uint16, n => decide (1 ≤ n ∧ n ≤ 16)
  | .int8, n | .uint8, n => decide (1 ≤ n ∧ n ≤ 8)
  | .rawBits, n => decide (1 ≤ n ∧ n ≤ 64)

/-- The next state of a one-word extraction of `n` bits at `p` with the limit `T` on the count: the pattern, or
RangeSizeError (rules R141, R143). -/
def oneWordOutcome (s : State) (kind : ValueKind) (T : Nat) (w : Word) (p n : Nat) : State :=
  if 1 ≤ n ∧ n ≤ T ∧ p + n ≤ 64 then answered s (.scalar (kindPattern kind n (bitsOf w.toNat p n)))
  else failed s 3 0

/-- The next state of EXTRACT_ACROSS (rule R162): the four checks in the rule's order, else the field. -/
def acrossOutcome (s : State) (ws : List Word) (i p n : Nat) : State :=
  let width := wordWidth s.cfg (ws.getD i 0)
  if n = 0 ∨ 64 < n then failed s 3 0
  else if ws.length ≤ i then failed s 2 0
  else if width ≤ p then failed s 3 0
  else if (ws.length - i) * width < p + n then failed s 6 0
  else answered s (.scalar (BitVec.ofNat 64 (bitsOf (joined width (ws.drop i)) p n)))

/-- The next state of EXTRACT_RANGE (rule R166). -/
def rangeOutcome (s : State) (ws : List Word) (first last p : Nat) : State :=
  let width := wordWidth s.cfg (ws.getD first 0)
  let size := (last + 1 - first) * width
  if last < first ∨ ws.length ≤ last then failed s 2 0
  else if size ≤ p ∨ p + 64 < size ∨ width ≤ p then failed s 3 0
  else answered s (.scalar (BitVec.ofNat 64 (bitsOf (joined width (ws.drop first)) p (size - p))))

/-- The next state of EXTRACT_FIELD (rule R169): the four checks in the rule's order, else the field as its kind. -/
def fieldOutcome (s : State) (ws : List Word) (f : BitFieldSpec) : State :=
  if countAllowed f.kind f.bitCount = false then failed s 3 0
  else if ws.length ≤ f.wordIndex then failed s 2 0
  else if wordBits s.cfg ≤ f.startBit then failed s 3 0
  else if (ws.length - f.wordIndex) * wordBits s.cfg < f.startBit + f.bitCount then failed s 6 0
  else
    answered s (.scalar (kindPattern f.kind f.bitCount
      (bitsOf (joined (wordBits s.cfg) (ws.drop f.wordIndex)) f.startBit f.bitCount)))

/-! The reassembler in closed form. -/

/-- `E = N * B` (spec/00_scope.md rule R8). -/
def sliceSize (c : Config) : Nat := c.expectedWordCount * (wordBits c / 8)

/-- The buffer may hold `n` bytes (spec/43_message_reassembler.md rule R199). -/
def roomFor (c : Config) (n : Nat) : Prop := ∀ cap, c.bufCap = some cap → n ≤ cap

/-- The MSG_OUT events of messages, where the instance streams (rule R198). -/
def streamed (c : Config) (ms : List Message) : List Output := if c.stream then ms.map .msgOut else []

/-- The messages that the whole slices of `all` give under Passthrough (rules R181, R182, R184). -/
def passthroughMessages (c : Config) (all : List Byte) : List Message :=
  (List.range (all.length / sliceSize c)).map fun j =>
    ⟨wordsOf c (piece all j (sliceSize c)), c.expectedWordCount⟩

/-- The next state of a FEED whose whole slices decode to `ms`: the MSG_OUT events, then the response, and of buffer and
chunk the bytes behind the slices stay (rules R183, R184, R198). -/
def drained (s : State) (chunk : List Byte) (ms : List Message) : State :=
  { s with
    buf := (s.buf ++ chunk).drop (ms.length * sliceSize s.cfg)
    inbox := s.inbox.tail
    out := s.out ++ streamed s.cfg ms ++ [.response ⟨0, 0, some (.messages ms)⟩] }

/-- The next state of FEED under Passthrough, where every slice decodes (rules R182, R183, R184, R198). -/
def feedOutcome (s : State) (chunk : List Byte) : State :=
  drained s chunk (passthroughMessages s.cfg (s.buf ++ chunk))

/-- How many slices a policy lets leave the buffer after a failure with `m` slices decoded (rules R186, R194). -/
def dropAllowed (policy : FeedFailPolicy) (m j : Nat) : Prop :=
  match policy with
  | .keepAll => j = 0
  | .dropDecoded => j = m
  | .dropFailing => j = m + 1
  | .any => j ≤ m + 1

/-- One feeding command (spec/20_memory.md rule R67). -/
inductive FeedOp where
  | feed (chunk : List Byte)
  | feedByte (byte : Byte)
deriving DecidableEq, Repr

/-- The bytes a feeding command brings. -/
def FeedOp.fed : FeedOp → List Byte
  | .feed chunk => chunk
  | .feedByte byte => [byte]

/-- The command that the host issues for it. -/
def FeedOp.event : FeedOp → HostEvent
  | .feed chunk => .command (encode .feed) (.bytes chunk)
  | .feedByte byte => .command (encode (.feedByte byte)) .nothing

/-- One feeding command run alone: the state after it and its messages, where its response is OK. -/
def feedOne (s : State) (op : FeedOp) : Option (State × List Message) :=
  match step { s with inbox := [op.event] } with
  | .next t =>
    match lastResponse t with
    | some r => if r.status = 0 then (match r.result with | some (.messages ms) => some (t, ms) | _ => none) else none
    | none => none
  | _ => none

/-- A sequence of feeding commands that all return OK: the state at the end and all messages, in order. -/
def feedRun : State → List FeedOp → Option (State × List Message)
  | s, [] => some (s, [])
  | s, op :: ops =>
    match feedOne s op with
    | none => none
    | some (t, ms) =>
      match feedRun t ops with
      | none => none
      | some (u, more) => some (u, ms ++ more)

/-- All the bytes of a sequence of feeding commands, in order. -/
def fedBytes (ops : List FeedOp) : List Byte := ops.flatMap FeedOp.fed

/-! Status registers in closed form (spec/10_state.md rule R36). -/

/-- The number a register holds, before it is read modulo `2^64`. -/
def csrNumberValue (s : State) : Csr → Nat
  | .cfg0 =>
    (match s.cfg.wordSize with | .w16 => 0 | .w32 => 1 | .w64 => 2)
      + (match s.cfg.order with | .big => 0 | .little => 4)
      + (match s.cfg.framer with | .passthrough => 0 | .standardMode => 8)
      + (match s.cfg.widthMode with | .configured => 0 | .heuristic => 16)
      + (match s.cfg.pairOrder with | .loFirst => 0 | .hiFirst => 32)
      + (if s.cfg.stream then 64 else 0)
      + (match s.cfg.feedFailPolicy with | .any => 0 | .keepAll => 128 | .dropDecoded => 256 | .dropFailing => 384)
  | .expwc => s.cfg.expectedWordCount
  | .expbytes => s.cfg.expectedWordCount * (wordBits s.cfg / 8)
  | .buflen => s.buf.length
  | .status => if s.cfg.expectedWordCount * (wordBits s.cfg / 8) ≤ s.buf.length then 1 else 0
  | .nfields => s.cfg.fields.length
  | .nbitfields => s.cfg.bitFields.length
  | .bufcap =>
    match s.cfg.bufCap with
    | none => 2 ^ 64 - 1
    | some cap => cap

/-! What holds along a run. -/

/-- The instance exists (rule R262) and its buffer is within its capacity (rule R199). -/
def instanceOk (s : State) : Prop := ¬ malformed s.cfg ∧ roomFor s.cfg s.buf.length

/-- A response has the shape of spec/30_encoding.md rule R75 and spec/60_exceptions.md rules R231, R236: a status code
that exists, a result exactly when it is OK, an INFO only for FramingError, and there a sub-cause. -/
def responseOk (r : Response) : Prop :=
  r.status.toNat ≤ 7
    ∧ (r.result.isSome = true ↔ r.status = 0)
    ∧ (r.info ≠ 0 → r.status = 4)
    ∧ (r.status = 4 → r.info.toNat % 4 ≠ 0)

/-- Every response ever sent has that shape. -/
def responsesOk (s : State) : Prop := ∀ r, Output.response r ∈ s.out → responseOk r

/-- The operations that may write the buffer (spec/10_state.md rule R30). -/
def writesBuffer : Instr → Bool
  | .feed | .feedByte _ | .poll | .reset => true
  | _ => false

/-- The operations that read mutable state (spec/20_memory.md rule R65). -/
def readsBuffer : Instr → Bool
  | .feed | .feedByte _ | .peek | .poll | .reset | .rdcsr _ => true
  | _ => false

/-- The STATUS codes an operation can answer, a payload of the right kind given: the table of
spec/60_exceptions.md rule R240. -/
def statusAllowed (c : Config) : Instr → List (BitVec 8)
  | .extractWords => [0, 1]
  | .bytesToWord _ => [0, 2]
  | .frExtract => if c.framer = .standardMode then [0, 4] else [0]
  | .extractBits _ _ | .extractInt8 _ _ | .extractInt16 _ _ | .extractInt32 _ _
  | .extractUint8 _ _ | .extractUint16 _ _ | .extractUint32 _ _
  | .extractBool _ | .extractFloat32 _ | .extractFloat64 _ => [0, 3]
  | .extractAcross _ _ _ => [0, 2, 3, 6]
  | .extractRange _ _ _ => [0, 2, 3]
  | .extractField _ _ _ _ => [0, 2, 3, 6]
  | .extractNamed _ => [0, 2, 3, 5, 6]
  | .feed | .feedByte _ | .peek | .poll =>
    if c.framer = .standardMode then (if c.expectedWordCount % 2 = 1 then [0, 1, 4] else [0, 4]) else [0]
  | .decode => if c.framer = .standardMode then [0, 1, 4] else [0, 1]
  | .getField _ | .getFieldRange _ => [0, 2, 5]
  | .wordToBytes | .validate | .frValidate | .frEncode | .reset | .encode | .seqToBytes | .seqValid | .rdcsr _ => [0]

end Sys2Proof.Safety
end

