-- ==== Sys2Proof/Certificates/Slice0/Obligations.lean ====
section
/-! DEFINITION. The statements for the provers. A statement about an operation gives its whole next state, so its frame
is part of it: `answered s v` and `failed s status info` change the inbox (the command is answered) and the output
(one response) and nothing else. -/

open Sys2Proof Sys2Proof.Machine Sys2Proof.Safety

/-! The command word. -/

/-- Every operand of every well-formed instruction survives encoding (rules R72, R73, R80, R81). -/
def Obligations.DecodeInvertsEncode : Prop :=
  ∀ i : Instr, i.wellFormed = true → Sys2Proof.decode (Sys2Proof.encode i) = .ok i

/-- The decoder rejects a word exactly when one of the encoding clauses of rule R82 holds. -/
def Obligations.DecodeRejectsExactlyIllegalWords : Prop :=
  ∀ w : Word, (∀ i, Sys2Proof.decode w ≠ .ok i) ↔ illegalWord w

/-- Rule R83: two words that agree on OP, RSV and the fields the operation reads decode alike. -/
def Obligations.UnreadFieldsAreIgnored : Prop :=
  ∀ (w v : Word) (row : Nat × PayloadKind × Word), row ∈ opcodeRows → w.toNat % 256 = row.1 →
    w &&& (row.2.2 ||| 0xFF000000000000FF) = v &&& (row.2.2 ||| 0xFF000000000000FF) →
    Sys2Proof.decode w = Sys2Proof.decode v

/-- Words written out from the encoding vectors of spec/95_test_vectors.md and the table's patterns, one or more per
family. -/
def Obligations.SpecWordsDecode : Prop :=
  Sys2Proof.decode 0x0000000001000012 = .ok (.bytesToWord 1)
    ∧ Sys2Proof.decode 0x0000000000000021 = .ok .frEncode
    ∧ Sys2Proof.decode 0x0000FFFF00080430 = .ok (.extractBits 4 8)
    ∧ Sys2Proof.decode 0x000002000100083B = .ok (.extractRange 1 2 8)
    ∧ Sys2Proof.decode 0x0000040002040C3C = .ok (.extractField 2 12 4 .int8)
    ∧ Sys2Proof.decode 0x000000000000CD41 = .ok (.feedByte 0xCD)
    ∧ Sys2Proof.decode 0x0000020000000055 = .ok (.getFieldRange 2)
    ∧ Sys2Proof.decode 0x0000000003000060 = .ok (.rdcsr .buflen)

/-! The step. -/

/-- When the command word presented decodes to `i`, the step is the meaning of `i` at that state; the block moves no
program counter and adds nothing around it. -/
def Obligations.StepRunsTheDecodedCommand : Prop :=
  ∀ (s : State) (w : Word) (p : Payload) (rest : List HostEvent) (i : Instr),
    s.inbox = .command w p :: rest → ¬ malformed s.cfg → Sys2Proof.decode w = .ok i →
    Sys2Proof.Machine.step s = Sys2Proof.Machine.exec i s

/-- MODEL'S CHOICE (entry 6 of the log): an illegal command, by any clause of rule R82, is answered with STATUS 7 and
changes no state, where the spec lets a model refuse it. -/
def Obligations.IllegalCommandAnsweredWithStatusSeven : Prop :=
  ∀ (s : State) (w : Word) (p : Payload) (rest : List HostEvent),
    s.inbox = .command w p :: rest → ¬ malformed s.cfg → illegalCommand w p →
    Sys2Proof.Machine.step s = .next (failed s 7 0)

/-- MODEL'S CHOICE (entry 1 of the log): with nothing presented the block stands still. -/
def Obligations.NothingPresentedNothingChanges : Prop :=
  ∀ s : State, s.inbox = [] → Sys2Proof.Machine.step s = .next s

/-- Rule R262: a hard reset is refused exactly for the configurations listed there, and where a malformed configuration
stands no command is given a step. -/
def Obligations.MalformedConfigurationIsRefused : Prop :=
  (∀ (s : State) (c : Config) (rest : List HostEvent), s.inbox = .hardReset c :: rest →
      (malformed c ↔ Sys2Proof.Machine.step s = .refused .malformedConfiguration))
    ∧ ∀ (s : State) (w : Word) (p : Payload) (rest : List HostEvent), s.inbox = .command w p :: rest →
      malformed s.cfg → Sys2Proof.Machine.step s = .refused .malformedConfiguration

/-- Rules R260, R261: a hard reset sets the configuration to its argument and the buffer to the empty sequence. What the
host has sent and received and the index of the free values stay (the model's own fields, entries 1, 2, 5). -/
def Obligations.HardResetSetsConfigurationAndEmptiesBuffer : Prop :=
  ∀ (s : State) (c : Config) (rest : List HostEvent), s.inbox = .hardReset c :: rest → ¬ malformed c →
    Sys2Proof.Machine.step s = .next { s with cfg := c, buf := [], inbox := rest }

/-! The word assembler. -/

/-- Rule R55: assembly and disassembly invert each other at every width and order. -/
def Obligations.AssemblyRoundTrips : Prop :=
  ∀ (order : ByteOrder) (n : Nat), n ∈ [2, 4, 8] →
    (∀ w : Word, w.toNat < 2 ^ (8 * n) → assemble order (disassemble order n w) = w)
      ∧ ∀ win : List Byte, win.length = n → disassemble order n (assemble order win) = win

/-- Rule R101: one word per window, the sum the rule's closed form gives, or AlignmentError. -/
def Obligations.ExtractWordsGivesWindowSums : Prop :=
  ∀ (s : State) (bs : List Byte), presents s (.bytes bs) →
    Sys2Proof.Machine.exec .extractWords s = .next
      (if bs.length % byteWidth s.cfg = 0 then answered s (.words (wordsOf s.cfg bs)) else failed s 1 0)

/-- Rule R104: a valid Word gives its `B` bytes; another word is refused. -/
def Obligations.WordToBytesGivesTheWordsBytes : Prop :=
  ∀ (s : State) (w : Word), presents s (.words [w]) →
    (w.toNat < 2 ^ wordBits s.cfg →
        Sys2Proof.Machine.exec .wordToBytes s = .next (answered s (.bytes
          ((List.range (byteWidth s.cfg)).map (orderByte s.cfg.order (byteWidth s.cfg) w)))))
      ∧ (2 ^ wordBits s.cfg ≤ w.toNat → Sys2Proof.Machine.exec .wordToBytes s = .refused .invalidWord)

/-- Rule R105: the window at any offset, or BoundsError. -/
def Obligations.BytesToWordGivesTheWindowSum : Prop :=
  ∀ (s : State) (bs : List Byte) (offset : Nat), presents s (.bytes bs) →
    Sys2Proof.Machine.exec (.bytesToWord offset) s = .next
      (if bs.length < offset + byteWidth s.cfg then failed s 2 0
       else answered s (.scalar
         (BitVec.ofNat 64 (orderSum s.cfg.order ((bs.drop offset).take (byteWidth s.cfg))))))

/-- Rule R106: BYTES_TO_WORD and WORD_TO_BYTES invert each other, and EXTRACT_WORDS is BYTES_TO_WORD at every
aligned offset. -/
def Obligations.WordAndByteOperationsAgree : Prop :=
  ∀ c : Config,
    (∀ w : Word, w.toNat < 2 ^ wordBits c → bytesToWord c (wordToBytes c w) 0 = .ok w)
      ∧ (∀ win : List Byte, win.length = byteWidth c →
          ∃ w, bytesToWord c win 0 = .ok w ∧ wordToBytes c w = win)
      ∧ ∀ bs : List Byte, bs.length % byteWidth c = 0 →
          ∃ ws, extractWords c bs = .ok ws ∧ ws.length = bs.length / byteWidth c
            ∧ ∀ i (h : i < ws.length), bytesToWord c bs (i * byteWidth c) = .ok ws[i]

/-- Rule R107: VALIDATE answers true exactly for the sequences the rule describes and never fails. -/
def Obligations.ValidateTestsFramingThenAlignment : Prop :=
  ∀ (s : State) (t : List Byte), presents s (.bytes t) →
    ∃ b : Bool, Sys2Proof.Machine.exec .validate s = .next (answered s (.boolean b))
      ∧ (b = true ↔ validTransport s.cfg t)

/-- Rule R108: VALIDATE predicts DECODE. -/
def Obligations.ValidatePredictsDecode : Prop :=
  ∀ (s : State) (t : List Byte), presents s (.bytes t) →
    (Sys2Proof.Machine.exec .validate s = .next (answered s (.boolean true)) ↔
        ∃ m, Sys2Proof.Machine.exec .decode s = .next (answered s (.message m)))
      ∧ (Sys2Proof.Machine.exec .validate s = .next (answered s (.boolean false)) ↔
        (∃ info, Sys2Proof.Machine.exec .decode s = .next (failed s 4 info))
          ∨ Sys2Proof.Machine.exec .decode s = .next (failed s 1 0))

/-! The framer. -/

/-- Rule R123: the identity, the data bytes, or a FramingError. MODEL'S CHOICE (entry 11 of the log): which sub-cause and
which symbol are reported where several conditions hold follows the orders of rules R124 and R241, which those rules let
a model leave open. -/
def Obligations.FrameExtractionReportsTheFirstBadSymbol : Prop :=
  ∀ (s : State) (t : List Byte), presents s (.bytes t) →
    (s.cfg.framer = .passthrough → Sys2Proof.Machine.exec .frExtract s = .next (answered s (.bytes t)))
      ∧ (s.cfg.framer = .standardMode → t.length % 2 = 1 →
          Sys2Proof.Machine.exec .frExtract s = .next (failed s 4 (framingInfo 3 (t.length / 2))))
      ∧ (s.cfg.framer = .standardMode → wellFramed s.cfg.pairOrder t →
          Sys2Proof.Machine.exec .frExtract s = .next (answered s (.bytes (dataOf s.cfg.pairOrder t))))
      ∧ ∀ k < t.length / 2, s.cfg.framer = .standardMode → t.length % 2 = 0 →
          (∀ j < k, goodSymbol (pairAt s.cfg.pairOrder t j)) → ¬ goodSymbol (pairAt s.cfg.pairOrder t k) →
          Sys2Proof.Machine.exec .frExtract s = .next
            (failed s 4 (framingInfo (if pairAt s.cfg.pairOrder t k % 2 = 1 then 1 else 2) k))

/-- Rule R127: the identity, or two transport bytes per data byte in the pair order. -/
def Obligations.FrameEncodingWritesSymbols : Prop :=
  ∀ (s : State) (d : List Byte), presents s (.bytes d) →
    Sys2Proof.Machine.exec .frEncode s = .next (answered s (.bytes (framed s.cfg d)))

/-- Rule R129: FR_VALIDATE answers true exactly where FR_EXTRACT returns OK, and never fails. -/
def Obligations.FrameValidationTestsEverySymbol : Prop :=
  ∀ (s : State) (t : List Byte), presents s (.bytes t) →
    ∃ b : Bool, Sys2Proof.Machine.exec .frValidate s = .next (answered s (.boolean b))
      ∧ (b = true ↔ s.cfg.framer = .passthrough ∨ wellFramed s.cfg.pairOrder t)
      ∧ (b = true ↔ ∃ d, Sys2Proof.Machine.exec .frExtract s = .next (answered s (.bytes d)))

/-- Rule R128: extraction inverts encoding under both variants and both pair orders. -/
def Obligations.FramingRoundTrips : Prop :=
  ∀ (c : Config) (d : List Byte), framerExtract c (framerEncode c d) = .ok d

/-! The bit-field extractor. -/

/-- Rule R141: the field, or RangeSizeError; the bound is 64. -/
def Obligations.ExtractBitsGivesTheField : Prop :=
  ∀ (s : State) (w : Word) (p n : Nat), presents s (.words [w]) →
    Sys2Proof.Machine.exec (.extractBits p n) s = .next (oneWordOutcome s .rawBits 64 w p n)

/-- Rules R144, R145, R146: the field sign-extended to the kind's width, or RangeSizeError. -/
def Obligations.SignedExtractorsSignExtend : Prop :=
  ∀ (s : State) (w : Word) (p n : Nat), presents s (.words [w]) →
    Sys2Proof.Machine.exec (.extractInt8 p n) s = .next (oneWordOutcome s .int8 8 w p n)
      ∧ Sys2Proof.Machine.exec (.extractInt16 p n) s = .next (oneWordOutcome s .int16 16 w p n)
      ∧ Sys2Proof.Machine.exec (.extractInt32 p n) s = .next (oneWordOutcome s .int32 32 w p n)

/-- Rules R147, R148, R149: the field zero-extended, or RangeSizeError. -/
def Obligations.UnsignedExtractorsZeroExtend : Prop :=
  ∀ (s : State) (w : Word) (p n : Nat), presents s (.words [w]) →
    Sys2Proof.Machine.exec (.extractUint8 p n) s = .next (oneWordOutcome s .uint8 8 w p n)
      ∧ Sys2Proof.Machine.exec (.extractUint16 p n) s = .next (oneWordOutcome s .uint16 16 w p n)
      ∧ Sys2Proof.Machine.exec (.extractUint32 p n) s = .next (oneWordOutcome s .uint32 32 w p n)

/-- Rule R150, with rule R76: the integer a typed result denotes is the field, less `2^n` where the kind is signed and
the field's top bit is set; the pattern is below `2^T`. -/
def Obligations.TypedIntegersDenoteTheField : Prop :=
  ∀ (kind : ValueKind) (w : Word) (p n : Nat) (v : TypedValue), typedInt kind w p n = .ok v →
    (kind ∈ [.int8, .int16, .int32] →
        v.bits.toNat < 2 ^ kindWidth kind
          ∧ v.denotes = .integer
            (if 2 ^ (n - 1) ≤ bitsOf w.toNat p n then (bitsOf w.toNat p n : Int) - 2 ^ n else bitsOf w.toNat p n))
      ∧ (kind ∈ [.uint8, .uint16, .uint32] →
        v.bits.toNat < 2 ^ kindWidth kind ∧ v.denotes = .integer (bitsOf w.toNat p n))

/-- Rule R151: the bit, or RangeSizeError above position 63. -/
def Obligations.ExtractBoolTestsOneBit : Prop :=
  ∀ (s : State) (w : Word) (p : Nat), presents s (.words [w]) →
    Sys2Proof.Machine.exec (.extractBool p) s = .next
      (if p ≤ 63 then answered s (.boolean (decide (bitsOf w.toNat p 1 = 1))) else failed s 3 0)

/-- Rules R153, R154: the 32- or 64-bit pattern unchanged, or RangeSizeError. -/
def Obligations.FloatExtractorsKeepThePattern : Prop :=
  ∀ (s : State) (w : Word) (p : Nat), presents s (.words [w]) →
    Sys2Proof.Machine.exec (.extractFloat32 p) s = .next
        (if p ≤ 32 then answered s (.scalar (BitVec.ofNat 64 (bitsOf w.toNat p 32))) else failed s 3 0)
      ∧ Sys2Proof.Machine.exec (.extractFloat64 p) s = .next
        (if p = 0 then answered s (.scalar w) else failed s 3 0)

/-- Rules R160, R161: the configured width, or the number of bits needed by the first word, rounded up. -/
def Obligations.WordWidthIsConfiguredOrDetected : Prop :=
  ∀ (c : Config) (v : Word),
    (c.widthMode = .configured → wordWidth c v = wordBits c)
      ∧ (c.widthMode = .heuristic → wordWidth c v =
          if v = 0 then 16
          else if v.toNat < 2 ^ 8 then 8
          else if v.toNat < 2 ^ 16 then 16
          else if v.toNat < 2 ^ 32 then 32
          else 64)

/-- Rule R162: the field of the words joined least-significant first, or an error. MODEL'S CHOICE (entry 11 of the log):
where several of the four checks fail, the first one in the rule's order is named, which rule R241 lets a model leave
open. -/
def Obligations.ExtractAcrossGivesTheJoinedField : Prop :=
  ∀ (s : State) (ws : List Word) (i p n : Nat), presents s (.words ws) →
    Sys2Proof.Machine.exec (.extractAcross i p n) s = .next (acrossOutcome s ws i p n)

/-- Rule R166: all the bits of a range of words from the start bit on, or an error, never InsufficientBitsError. MODEL'S
CHOICE (entry 11 of the log): where several checks fail, the first one in the rule's order is named, which U8 lets a model
leave open. -/
def Obligations.ExtractRangeGivesAllBitsOfTheRange : Prop :=
  ∀ (s : State) (ws : List Word) (first last p : Nat), presents s (.words ws) →
    Sys2Proof.Machine.exec (.extractRange first last p) s = .next (rangeOutcome s ws first last p)

/-- Rules R168, R169: the field of the joined words at width `CFG.W`, converted to its kind, or an error. MODEL'S CHOICE
(entry 11 of the log): where several of the four checks fail, the first one in the rule's order is named, which rule R241
lets a model leave open. -/
def Obligations.ExtractFieldGivesTheTypedField : Prop :=
  ∀ (s : State) (ws : List Word) (i p n : Nat) (kind : ValueKind), presents s (.words ws) →
    Sys2Proof.Machine.exec (.extractField i p n kind) s = .next (fieldOutcome s ws ⟨i, p, n, kind⟩)

/-- Rule R171: UnknownFieldError for a key that is in no entry, else the field of the entry or an error of rule R169.
MODEL'S CHOICE (entry 11 of the log): where several checks of R169 fail, the first one in its order is named. -/
def Obligations.ExtractNamedLooksUpTheField : Prop :=
  ∀ (s : State) (ws : List Word) (key : Nat), presents s (.words ws) → ¬ malformed s.cfg →
    ((∀ entry ∈ s.cfg.bitFields, entry.1 ≠ key) →
        Sys2Proof.Machine.exec (.extractNamed key) s = .next (failed s 5 0))
      ∧ ∀ f, (key, f) ∈ s.cfg.bitFields →
        Sys2Proof.Machine.exec (.extractNamed key) s = .next (fieldOutcome s ws f)

/-! The reassembler. -/

/-- Rules R181, R182: what a slice decodes to, by framer: the words, `N` and the field table, valid or not; else
AlignmentError, or the framer's own FramingError, with the INFO that FR_EXTRACT answers for the slice. -/
def Obligations.SliceDecodingByFramer : Prop :=
  ∀ (c : Config) (slice : List Byte), slice.length = sliceSize c → 1 ≤ c.expectedWordCount →
    (c.framer = .passthrough → ∃ m, decodeSlice c slice = .ok m
        ∧ m = ⟨wordsOf c slice, c.expectedWordCount, c.fields⟩
        ∧ m.words.length = c.expectedWordCount ∧ m.travel.isValid = true)
      ∧ (c.framer = .standardMode → wellFramed c.pairOrder slice → c.expectedWordCount % 2 = 0 →
        ∃ m, decodeSlice c slice = .ok m
          ∧ m = ⟨wordsOf c (dataOf c.pairOrder slice), c.expectedWordCount, c.fields⟩
          ∧ m.words.length = c.expectedWordCount / 2 ∧ m.travel.isValid = false)
      ∧ (c.framer = .standardMode → wellFramed c.pairOrder slice → c.expectedWordCount % 2 = 1 →
        decodeSlice c slice = .error .alignment)
      ∧ (c.framer = .standardMode → ¬ wellFramed c.pairOrder slice →
        ∃ sub k, sub ≠ SubCause.oddLength ∧ decodeSlice c slice = .error (.framing sub k)
          ∧ framerExtract c slice = .error (.framing sub k)
          ∧ ∀ s : State, s.cfg = c → presents s (.bytes slice) →
            Sys2Proof.Machine.exec .frExtract s = .next (failed s 4 (infoWord (.framing sub k))))

/-- Rules R183, R184, R198: whatever the framer, a FEED whose whole slices all decode completes: it emits their messages in
order, signals them where the instance streams, and keeps the remainder. Under Passthrough every slice decodes. -/
def Obligations.FeedDrainsEveryWholeSlice : Prop :=
  ∀ (s : State) (chunk : List Byte), presents s (.bytes chunk) → 1 ≤ s.cfg.expectedWordCount →
    roomFor s.cfg (s.buf ++ chunk).length →
    (∀ ms : List WordSeq, ms.length = (s.buf ++ chunk).length / sliceSize s.cfg →
        (∀ j (h : j < ms.length), decodeSlice s.cfg (piece (s.buf ++ chunk) j (sliceSize s.cfg)) = .ok ms[j]) →
        Sys2Proof.Machine.exec .feed s = .next (drained s chunk (ms.map WordSeq.travel)))
      ∧ (s.cfg.framer = .passthrough → Sys2Proof.Machine.exec .feed s = .next (feedOutcome s chunk))

/-- Rule R184: whatever the framer, an OK FEED emits one message per whole slice, each the decode of its slice, and
leaves the remainder; the MSG_OUT events before its response are those messages where the instance streams (rule R198). -/
def Obligations.FeedCountingLaw : Prop :=
  ∀ (s t : State) (chunk : List Byte) (events : List Output) (ms : List Message), presents s (.bytes chunk) →
    Sys2Proof.Machine.exec .feed s = .next t →
    t.out = s.out ++ events ++ [.response ⟨0, 0, some (.messages ms)⟩] →
    ms.length = (s.buf.length + chunk.length) / sliceSize s.cfg
      ∧ t.buf.length = (s.buf.length + chunk.length) % sliceSize s.cfg
      ∧ t.buf = (s.buf ++ chunk).drop (ms.length * sliceSize s.cfg)
      ∧ events = streamed s.cfg ms
      ∧ ∀ j (h : j < ms.length), ∃ m,
          decodeSlice s.cfg (piece (s.buf ++ chunk) j (sliceSize s.cfg)) = .ok m ∧ ms[j] = m.travel

/-- Rules R183, R186, R198: a FEED that meets a slice it cannot decode answers that slice's error and no message; as many
slices leave the buffer as the policy allows (any number up to `m + 1` under Any); of the messages decoded before, none
or all are signalled. -/
def Obligations.FailedFeedFollowsThePolicy : Prop :=
  ∀ (s : State) (chunk : List Byte) (ms : List WordSeq) (e : OpError), presents s (.bytes chunk) →
    1 ≤ s.cfg.expectedWordCount → roomFor s.cfg (s.buf ++ chunk).length →
    (∀ j (h : j < ms.length), decodeSlice s.cfg (piece (s.buf ++ chunk) j (sliceSize s.cfg)) = .ok ms[j]) →
    (ms.length + 1) * sliceSize s.cfg ≤ (s.buf ++ chunk).length →
    decodeSlice s.cfg (piece (s.buf ++ chunk) ms.length (sliceSize s.cfg)) = .error e →
    ∃ (j : Nat) (events : List Output),
      Sys2Proof.Machine.exec .feed s = .next
        { s with
          buf := (s.buf ++ chunk).drop (j * sliceSize s.cfg)
          inbox := s.inbox.tail
          out := s.out ++ events ++ [.response ⟨statusCode e, infoWord e, none⟩]
          freeIx := s.freeIx + 1 }
      ∧ dropAllowed s.cfg.feedFailPolicy ms.length j
      ∧ (events = [] ∨ events = streamed s.cfg (ms.map WordSeq.travel))

/-- Rule R188: FEED_BYTE is FEED of the one byte in every respect; so under Passthrough it completes. -/
def Obligations.FeedByteIsFeedOfOneByte : Prop :=
  ∀ (s : State) (byte : Byte), presents s .nothing →
    (∀ (word : Word), Sys2Proof.Machine.exec (.feedByte byte) s
        = Sys2Proof.Machine.exec .feed { s with inbox := .command word (.bytes [byte]) :: s.inbox.tail })
      ∧ (s.cfg.framer = .passthrough → 1 ≤ s.cfg.expectedWordCount → roomFor s.cfg (s.buf.length + 1) →
        Sys2Proof.Machine.exec (.feedByte byte) s = .next (feedOutcome s [byte]))

/-- Rule R199: a FEED that would exceed the capacity is refused. -/
def Obligations.FeedBeyondCapacityIsRefused : Prop :=
  ∀ (s : State) (chunk : List Byte) (cap : Nat), 1 ≤ s.cfg.expectedWordCount → s.cfg.bufCap = some cap →
    cap < s.buf.length + chunk.length →
    (presents s (.bytes chunk) → Sys2Proof.Machine.exec .feed s = .refused .bufferCapacity)
      ∧ ∀ byte, chunk = [byte] → presents s .nothing →
        Sys2Proof.Machine.exec (.feedByte byte) s = .refused .bufferCapacity

/-- Rule R190: none, the front message, or its error; the buffer is never changed. -/
def Obligations.PeekShowsTheFrontMessage : Prop :=
  ∀ s : State, presents s .nothing →
    (s.buf.length < sliceSize s.cfg → Sys2Proof.Machine.exec .peek s = .next (answered s .noMessage))
      ∧ (sliceSize s.cfg ≤ s.buf.length → ∀ m, decodeSlice s.cfg (s.buf.take (sliceSize s.cfg)) = .ok m →
        Sys2Proof.Machine.exec .peek s = .next (answered s (.message m.travel)))
      ∧ (sliceSize s.cfg ≤ s.buf.length → ∀ e, decodeSlice s.cfg (s.buf.take (sliceSize s.cfg)) = .error e →
        Sys2Proof.Machine.exec .peek s = .next (failed s (statusCode e) (infoWord e)))

/-- Rules R192, R194: as PEEK, one slice leaving the buffer with its message; after an error as many as the policy
allows, at most one. -/
def Obligations.PollRemovesTheFrontMessage : Prop :=
  ∀ s : State, presents s .nothing →
    (s.buf.length < sliceSize s.cfg → Sys2Proof.Machine.exec .poll s = .next (answered s .noMessage))
      ∧ (sliceSize s.cfg ≤ s.buf.length → ∀ m, decodeSlice s.cfg (s.buf.take (sliceSize s.cfg)) = .ok m →
        Sys2Proof.Machine.exec .poll s = .next
          (answered { s with buf := s.buf.drop (sliceSize s.cfg) } (.message m.travel)))
      ∧ (sliceSize s.cfg ≤ s.buf.length → ∀ e, decodeSlice s.cfg (s.buf.take (sliceSize s.cfg)) = .error e →
        ∃ j, dropAllowed s.cfg.feedFailPolicy 0 j
          ∧ Sys2Proof.Machine.exec .poll s = .next
            (failed { s with buf := s.buf.drop (j * sliceSize s.cfg), freeIx := s.freeIx + 1 }
              (statusCode e) (infoWord e)))

/-- Rule R196: the buffer becomes empty in every state; nothing else changes. -/
def Obligations.ResetDiscardsTheBuffer : Prop :=
  ∀ s : State, presents s .nothing →
    Sys2Proof.Machine.exec .reset s = .next (answered { s with buf := [] } .nothing)

/-- Rule R263: after RESET and after a hard reset with the configuration in force, the instance is in the same state; it
differs in what the host has been sent only. -/
def Obligations.ResetEqualsHardResetInPlace : Prop :=
  ∀ (s t u : State) (word : Word) (rest : List HostEvent), ¬ malformed s.cfg →
    Sys2Proof.Machine.exec .reset { s with inbox := .command word .nothing :: rest } = .next t →
    Sys2Proof.Machine.step { s with inbox := .hardReset s.cfg :: rest } = .next u →
    { t with out := u.out } = u

/-- Rule R67: along every sequence of feeding commands that all return OK, from an empty buffer, the bytes fed are the
emitted slices and the remainder, and message `k` is the decode of the fed bytes from `k*E` on. -/
def Obligations.FedBytesAreConserved : Prop :=
  ∀ (s t : State) (ops : List FeedOp) (ms : List Message), s.buf = [] → feedRun s ops = some (t, ms) →
    1 ≤ s.cfg.expectedWordCount →
    ms.length * sliceSize s.cfg + t.buf.length = (fedBytes ops).length
      ∧ ∀ k (h : k < ms.length), ∃ m,
          decodeSlice s.cfg (piece (fedBytes ops) k (sliceSize s.cfg)) = .ok m ∧ ms[k] = m.travel

/-- Rule R185: where the chunk boundaries fall does not matter, and a message fed byte by byte comes with its last byte
and not before. -/
def Obligations.ChunkBoundariesDoNotMatter : Prop :=
  (∀ (s t u : State) (ops ops' : List FeedOp) (ms ms' : List Message), s.buf.length < sliceSize s.cfg →
      fedBytes ops = fedBytes ops' → feedRun s ops = some (t, ms) → feedRun s ops' = some (u, ms') →
      ms = ms' ∧ t.buf = u.buf)
    ∧ ∀ (s t : State) (bs : List Byte) (k : Nat) (ms : List Message), s.buf = [] → 1 ≤ s.cfg.expectedWordCount →
      bs.length = sliceSize s.cfg → k ≤ bs.length → feedRun s ((bs.take k).map .feedByte) = some (t, ms) →
      ms.length = if k = bs.length then 1 else 0

/-- Rule R32: after an OK FEED or FEED_BYTE, from any buffer, no complete message is pending; and no operation that
returns OK makes one pending. -/
def Obligations.OkOperationsLeaveNoMessagePending : Prop :=
  ∀ (i : Instr) (s t : State) (r : Response), 1 ≤ s.cfg.expectedWordCount →
    Sys2Proof.Machine.exec i s = .next t → lastResponse t = some r → r.status = 0 →
    ((i = .feed ∨ ∃ byte, i = .feedByte byte) → t.buf.length < sliceSize t.cfg)
      ∧ (s.buf.length < sliceSize s.cfg → t.buf.length < sliceSize t.cfg)

/-! The pipeline, the word sequence, the status registers. -/

/-- Rule R211: framer, then words; FramingError before AlignmentError. -/
def Obligations.DecodeRunsThePipeline : Prop :=
  ∀ (s : State) (t : List Byte), presents s (.bytes t) →
    (s.cfg.framer = .passthrough → Sys2Proof.Machine.exec .decode s = .next
        (if t.length % byteWidth s.cfg = 0 then
           answered s (.message ⟨wordsOf s.cfg t, s.cfg.expectedWordCount⟩)
         else failed s 1 0))
      ∧ (s.cfg.framer = .standardMode → wellFramed s.cfg.pairOrder t → Sys2Proof.Machine.exec .decode s = .next
        (if t.length / 2 % byteWidth s.cfg = 0 then
           answered s (.message ⟨wordsOf s.cfg (dataOf s.cfg.pairOrder t), s.cfg.expectedWordCount⟩)
         else failed s 1 0))
      ∧ (s.cfg.framer = .standardMode → ¬ wellFramed s.cfg.pairOrder t →
        ∃ info, Sys2Proof.Machine.exec .decode s = .next (failed s 4 info)
          ∧ Sys2Proof.Machine.exec .frExtract s = .next (failed s 4 info))

/-- Rule R213: the words' bytes, framed; a sequence with an invalid Word is refused. -/
def Obligations.EncodeWritesFramedBytes : Prop :=
  ∀ (s : State) (ws : List Word), presents s (.words ws) →
    (allValid s.cfg ws →
        Sys2Proof.Machine.exec .encode s = .next (answered s (.bytes (framed s.cfg (bytesOf s.cfg ws)))))
      ∧ (¬ allValid s.cfg ws → Sys2Proof.Machine.exec .encode s = .refused .invalidWord)

/-- Rule R214: DECODE and ENCODE invert each other. -/
def Obligations.PipelineRoundTrips : Prop :=
  ∀ c : Config,
    (∀ ws : List Word, allValid c ws →
        decodeBytes c (encodeWords c ws) = .ok ⟨ws, c.expectedWordCount, c.fields⟩)
      ∧ ∀ (t : List Byte) (m : WordSeq), decodeBytes c t = .ok m →
        (c.framer = .passthrough ∨ ∀ k < t.length / 2, pairAt c.pairOrder t k < 1024) →
        encodeWords c m.words = t

/-- Rule R215: the words' bytes without framing. That a sequence with an invalid Word is refused stands in rules R104 and
R276 and in U6 (entry 7 of the log). -/
def Obligations.SeqToBytesWritesDataBytes : Prop :=
  ∀ (s : State) (ws : List Word), presents s (.words ws) →
    (allValid s.cfg ws → Sys2Proof.Machine.exec .seqToBytes s = .next (answered s (.bytes (bytesOf s.cfg ws))))
      ∧ (¬ allValid s.cfg ws → Sys2Proof.Machine.exec .seqToBytes s = .refused .invalidWord)

/-- Rule R216: the count alone decides. -/
def Obligations.SeqValidComparesTheCount : Prop :=
  ∀ (s : State) (ws : List Word), presents s (.words ws) →
    Sys2Proof.Machine.exec .seqValid s
      = .next (answered s (.boolean (decide (ws.length = s.cfg.expectedWordCount))))

/-- Rules R218, R219: the first word, or all the words, of a named range; UnknownFieldError, then BoundsError. MODEL'S
CHOICE (entry 15 of the log): this holds for a payload with invalid Words too, whose words are returned as given, where
rule R33 has a model refuse an invalid Word. -/
def Obligations.NamedRangesGiveTheirWords : Prop :=
  ∀ (s : State) (ws : List Word) (key : Nat), presents s (.words ws) → ¬ malformed s.cfg →
    ((∀ entry ∈ s.cfg.fields, entry.1 ≠ key) →
        Sys2Proof.Machine.exec (.getField key) s = .next (failed s 5 0)
          ∧ Sys2Proof.Machine.exec (.getFieldRange key) s = .next (failed s 5 0))
      ∧ ∀ f, (key, f) ∈ s.cfg.fields →
        Sys2Proof.Machine.exec (.getField key) s = .next
            (if ws.length ≤ f.startWordIndex then failed s 2 0
             else answered s (.scalar (ws.getD f.startWordIndex 0)))
          ∧ Sys2Proof.Machine.exec (.getFieldRange key) s = .next
            (if ws.length ≤ f.endWordIndex then failed s 2 0
             else answered s (.words ((ws.take (f.endWordIndex + 1)).drop f.startWordIndex)))

/-- Rules R36, R220: each register reads as the number the rule lays out, modulo `2^64`. -/
def Obligations.StatusRegistersReadTheirNumbers : Prop :=
  ∀ (s : State) (csr : Csr), presents s .nothing →
    Sys2Proof.Machine.exec (.rdcsr csr) s = .next (answered s (.scalar (BitVec.ofNat 64 (csrNumberValue s csr))))

/-! All operations together. -/

/-- Rules R20, R30, R61: no operation writes the configuration; only FEED, FEED_BYTE, POLL and RESET may write the buffer;
what is sent is one response, with MSG_OUT events before it from FEED and FEED_BYTE alone. -/
def Obligations.OnlyTheReassemblerWritesState : Prop :=
  ∀ (i : Instr) (s t : State), Sys2Proof.Machine.exec i s = .next t →
    t.cfg = s.cfg ∧ t.inbox = s.inbox.tail
      ∧ (writesBuffer i = false → t.buf = s.buf ∧ t.freeIx = s.freeIx)
      ∧ ∃ (ms : List Message) (r : Response), t.out = s.out ++ ms.map .msgOut ++ [.response r]
        ∧ (ms = [] ∨ (s.cfg.stream = true ∧ (i = .feed ∨ ∃ byte, i = .feedByte byte)))

/-- Rule R65: the operations other than FEED, FEED_BYTE, PEEK, POLL, RESET and RDCSR read no mutable state: with another
buffer they answer the same. -/
def Obligations.PureOperationsIgnoreTheBuffer : Prop :=
  ∀ (i : Instr) (s t : State) (bytes : List Byte) (ix : Nat), readsBuffer i = false →
    Sys2Proof.Machine.exec i s = .next t →
    Sys2Proof.Machine.exec i { s with buf := bytes, freeIx := ix } = .next { t with buf := bytes, freeIx := ix }

/-- Rule R240: given a payload of the kind it takes, an operation answers no error but those its row of the table
lists. -/
def Obligations.OperationsFailOnlyAsTabled : Prop :=
  ∀ (i : Instr) (s t : State) (p : Payload) (r : Response), ¬ malformed s.cfg → presents s p →
    rightPayload (payloadKindOf i) p → Sys2Proof.Machine.exec i s = .next t → lastResponse t = some r →
    r.status ∈ statusAllowed s.cfg i

/-! Invariants. -/

/-- Every step, hard resets among them, keeps a well-formed configuration and a buffer within its capacity. -/
def Obligations.StepKeepsTheInstanceWellFormed : Prop :=
  ∀ s t : State, instanceOk s → Sys2Proof.Machine.step s = .next t → instanceOk t

/-- Every response a step sends has a status code of the table, a result exactly when it is OK, and an INFO only for
FramingError. -/
def Obligations.StepKeepsResponsesWellFormed : Prop :=
  ∀ s t : State, responsesOk s → Sys2Proof.Machine.step s = .next t → responsesOk t

/-- Both invariants hold after reset, and no complete message is pending (rule R261). The configuration of the
reset instance is the model's choice (entries 3, 4 of the log). -/
def Obligations.ResetMeetsTheInvariants : Prop :=
  instanceOk Sys2Proof.Machine.State.reset ∧ responsesOk Sys2Proof.Machine.State.reset
    ∧ Sys2Proof.Machine.State.reset.buf = []
    ∧ hasMsg Sys2Proof.Machine.State.reset = false
end

