-- ==== Sys2Proof/Laws/State.lean ====
section
/-! SUPPORT. One lemma per field for each write of the state. -/

namespace Sys2Proof.Machine

@[simp] theorem State.setBuf_cfg (s : State) (bytes : List Byte) : (s.setBuf bytes).cfg = s.cfg := rfl
@[simp] theorem State.setBuf_buf (s : State) (bytes : List Byte) : (s.setBuf bytes).buf = bytes := rfl
@[simp] theorem State.setBuf_inbox (s : State) (bytes : List Byte) : (s.setBuf bytes).inbox = s.inbox := rfl
@[simp] theorem State.setBuf_out (s : State) (bytes : List Byte) : (s.setBuf bytes).out = s.out := rfl
@[simp] theorem State.setBuf_freeIx (s : State) (bytes : List Byte) : (s.setBuf bytes).freeIx = s.freeIx := rfl

@[simp] theorem State.useFree_cfg (s : State) : (s.useFree).cfg = s.cfg := rfl
@[simp] theorem State.useFree_buf (s : State) : (s.useFree).buf = s.buf := rfl
@[simp] theorem State.useFree_inbox (s : State) : (s.useFree).inbox = s.inbox := rfl
@[simp] theorem State.useFree_out (s : State) : (s.useFree).out = s.out := rfl
@[simp] theorem State.useFree_freeIx (s : State) : (s.useFree).freeIx = s.freeIx + 1 := rfl

@[simp] theorem State.signal_cfg (s : State) (ms : List Message) : (s.signal ms).cfg = s.cfg := rfl
@[simp] theorem State.signal_buf (s : State) (ms : List Message) : (s.signal ms).buf = s.buf := rfl
@[simp] theorem State.signal_inbox (s : State) (ms : List Message) : (s.signal ms).inbox = s.inbox := rfl
@[simp] theorem State.signal_out (s : State) (ms : List Message) : (s.signal ms).out = s.out ++ ms.map .msgOut := rfl
@[simp] theorem State.signal_freeIx (s : State) (ms : List Message) : (s.signal ms).freeIx = s.freeIx := rfl

@[simp] theorem State.respond_cfg (s : State) (r : Response) : (s.respond r).cfg = s.cfg := rfl
@[simp] theorem State.respond_buf (s : State) (r : Response) : (s.respond r).buf = s.buf := rfl
@[simp] theorem State.respond_inbox (s : State) (r : Response) : (s.respond r).inbox = s.inbox.tail := rfl
@[simp] theorem State.respond_out (s : State) (r : Response) : (s.respond r).out = s.out ++ [.response r] := rfl
@[simp] theorem State.respond_freeIx (s : State) (r : Response) : (s.respond r).freeIx = s.freeIx := rfl

@[simp] theorem State.answerOk_cfg (s : State) (v : Result) : (s.answerOk v).cfg = s.cfg := rfl
@[simp] theorem State.answerOk_buf (s : State) (v : Result) : (s.answerOk v).buf = s.buf := rfl
@[simp] theorem State.answerOk_inbox (s : State) (v : Result) : (s.answerOk v).inbox = s.inbox.tail := rfl
@[simp] theorem State.answerOk_out (s : State) (v : Result) : (s.answerOk v).out = s.out ++ [.response ⟨0, 0, some v⟩] := rfl
@[simp] theorem State.answerOk_freeIx (s : State) (v : Result) : (s.answerOk v).freeIx = s.freeIx := rfl

@[simp] theorem State.raise_cfg (s : State) (e : OpError) : (s.raise e).cfg = s.cfg := rfl
@[simp] theorem State.raise_buf (s : State) (e : OpError) : (s.raise e).buf = s.buf := rfl
@[simp] theorem State.raise_inbox (s : State) (e : OpError) : (s.raise e).inbox = s.inbox.tail := rfl
@[simp] theorem State.raise_out (s : State) (e : OpError) : (s.raise e).out = s.out ++ [.response ⟨statusCode e, infoWord e, none⟩] := rfl
@[simp] theorem State.raise_freeIx (s : State) (e : OpError) : (s.raise e).freeIx = s.freeIx := rfl

@[simp] theorem State.answerIllegal_cfg (s : State) : (s.answerIllegal).cfg = s.cfg := rfl
@[simp] theorem State.answerIllegal_buf (s : State) : (s.answerIllegal).buf = s.buf := rfl
@[simp] theorem State.answerIllegal_inbox (s : State) : (s.answerIllegal).inbox = s.inbox.tail := rfl
@[simp] theorem State.answerIllegal_out (s : State) : (s.answerIllegal).out = s.out ++ [.response ⟨illegalStatus, 0, none⟩] := rfl
@[simp] theorem State.answerIllegal_freeIx (s : State) : (s.answerIllegal).freeIx = s.freeIx := rfl

@[simp] theorem State.construct_cfg (s : State) (c : Config) : (s.construct c).cfg = c := rfl
@[simp] theorem State.construct_buf (s : State) (c : Config) : (s.construct c).buf = [] := rfl
@[simp] theorem State.construct_inbox (s : State) (c : Config) : (s.construct c).inbox = s.inbox.tail := rfl
@[simp] theorem State.construct_out (s : State) (c : Config) : (s.construct c).out = s.out := rfl
@[simp] theorem State.construct_freeIx (s : State) (c : Config) : (s.construct c).freeIx = s.freeIx := rfl

@[simp] theorem State.submit_cfg (s : State) (w : Word) (p : Payload) : (s.submit w p).cfg = s.cfg := rfl
@[simp] theorem State.submit_buf (s : State) (w : Word) (p : Payload) : (s.submit w p).buf = s.buf := rfl
@[simp] theorem State.submit_inbox (s : State) (w : Word) (p : Payload) : (s.submit w p).inbox = s.inbox ++ [.command w p] := rfl
@[simp] theorem State.submit_out (s : State) (w : Word) (p : Payload) : (s.submit w p).out = s.out := rfl
@[simp] theorem State.submit_freeIx (s : State) (w : Word) (p : Payload) : (s.submit w p).freeIx = s.freeIx := rfl

@[simp] theorem State.stream_cfg (s : State) (ms : List Message) : (s.stream ms).cfg = s.cfg := by
  unfold State.stream; split <;> rfl

@[simp] theorem State.stream_buf (s : State) (ms : List Message) : (s.stream ms).buf = s.buf := by
  unfold State.stream; split <;> rfl

@[simp] theorem State.stream_inbox (s : State) (ms : List Message) : (s.stream ms).inbox = s.inbox := by
  unfold State.stream; split <;> rfl

@[simp] theorem State.stream_freeIx (s : State) (ms : List Message) : (s.stream ms).freeIx = s.freeIx := by
  unfold State.stream; split <;> rfl

@[simp] theorem State.streamFailed_cfg (s : State) (ms : List Message) : (s.streamFailed ms).cfg = s.cfg := by
  unfold State.streamFailed; split <;> rfl

@[simp] theorem State.streamFailed_buf (s : State) (ms : List Message) : (s.streamFailed ms).buf = s.buf := by
  unfold State.streamFailed; split <;> rfl

@[simp] theorem State.streamFailed_inbox (s : State) (ms : List Message) : (s.streamFailed ms).inbox = s.inbox := by
  unfold State.streamFailed; split <;> rfl

@[simp] theorem State.streamFailed_freeIx (s : State) (ms : List Message) : (s.streamFailed ms).freeIx = s.freeIx := by
  unfold State.streamFailed; split <;> rfl

@[simp] theorem State.stream_out (s : State) (ms : List Message) :
    (s.stream ms).out = s.out ++ (if s.cfg.stream then ms.map .msgOut else []) := by
  unfold State.stream; split <;> simp_all

/-- A failed FEED signals none of the messages or, on a streaming instance, all of them (rule R198). -/
theorem State.streamFailed_out (s : State) (ms : List Message) :
    (s.streamFailed ms).out = s.out
      ∨ (s.cfg.stream = true ∧ (s.streamFailed ms).out = s.out ++ ms.map .msgOut) := by
  unfold State.streamFailed; split <;> simp_all

@[simp] theorem WordSeq.travel_words (m : WordSeq) : m.travel.words = m.words := rfl
@[simp] theorem WordSeq.travel_expectedWordCount (m : WordSeq) :
    m.travel.expectedWordCount = m.expectedWordCount := rfl
@[simp] theorem wordSeqOf_words (c : Config) (ws : List Word) : (wordSeqOf c ws).words = ws := rfl
@[simp] theorem wordSeqOf_expectedWordCount (c : Config) (ws : List Word) :
    (wordSeqOf c ws).expectedWordCount = c.expectedWordCount := rfl

end Sys2Proof.Machine
end

