-- ==== Sys2Proof/Laws/Ops.lean ====
section
/-! SUPPORT. For each shared operation, one lemma that says all it can do; the provers cite these instead of unfolding. -/

namespace Sys2Proof.Machine

open Sys2Proof.Safety

/-! The payload presented. -/

theorem payloadOf_of_presents (h : presents s p) : payloadOf s = p := by
  obtain ⟨w, rest, h⟩ := h
  simp [payloadOf, h]

theorem withBytes_of_presents (h : presents s (.bytes bs)) (body) : withBytes s body = body bs := by
  simp [withBytes, payloadOf_of_presents h]

theorem withWords_of_presents (h : presents s (.words ws)) (body) : withWords s body = body ws := by
  simp [withWords, payloadOf_of_presents h]

theorem withWord_of_presents (h : presents s (.words [w])) (body) : withWord s body = body w := by
  simp [withWord, payloadOf_of_presents h]

theorem withNothing_of_presents (h : presents s .nothing) (body) : withNothing s body = body := by
  simp [withNothing, payloadOf_of_presents h]

/-- An operation over bytes either runs its body or answers an illegal command. -/
theorem withBytes_next (h : withBytes s body = .next t) :
    (∃ bs, payloadOf s = .bytes bs ∧ body bs = .next t) ∨ t = s.answerIllegal := by
  unfold withBytes at h
  split at h
  · exact .inl ⟨_, ‹_›, h⟩
  · exact .inr (by injection h with h; exact h.symm)

/-- An operation over words either runs its body or answers an illegal command. -/
theorem withWords_next (h : withWords s body = .next t) :
    (∃ ws, payloadOf s = .words ws ∧ body ws = .next t) ∨ t = s.answerIllegal := by
  unfold withWords at h
  split at h
  · exact .inl ⟨_, ‹_›, h⟩
  · exact .inr (by injection h with h; exact h.symm)

/-- An operation over one word either runs its body or answers an illegal command. -/
theorem withWord_next (h : withWord s body = .next t) :
    (∃ w, payloadOf s = .words [w] ∧ body w = .next t) ∨ t = s.answerIllegal := by
  unfold withWord at h
  split at h
  · exact .inl ⟨_, ‹_›, h⟩
  · exact .inr (by injection h with h; exact h.symm)

/-- An operation without a payload either runs its body or answers an illegal command. -/
theorem withNothing_next (h : withNothing s body = .next t) :
    (payloadOf s = .nothing ∧ body = .next t) ∨ t = s.answerIllegal := by
  unfold withNothing at h
  split at h
  · exact .inl ⟨‹_›, h⟩
  · exact .inr (by injection h with h; exact h.symm)

/-! Answers: the operations and the terms of the claims agree. -/

@[simp] theorem answerOk_eq_answered (s : State) (v : Result) : s.answerOk v = answered s v := rfl

@[simp] theorem raise_eq_failed (s : State) (e : OpError) : s.raise e = failed s (statusCode e) (infoWord e) := rfl

@[simp] theorem answerIllegal_eq_failed (s : State) : s.answerIllegal = failed s 7 0 := rfl

/-- A pure operation's ending: it returns, or it raises. -/
theorem answer_cases (s : State) (r : Except OpError Result) :
    (∃ v, r = .ok v ∧ s.answer r = answered s v)
      ∨ ∃ e, r = .error e ∧ s.answer r = failed s (statusCode e) (infoWord e) := by
  cases r with
  | ok v => exact .inl ⟨v, rfl, rfl⟩
  | error e => exact .inr ⟨e, rfl, rfl⟩

@[simp] theorem answer_ok (s : State) (v : Result) : s.answer (.ok v) = answered s v := rfl

@[simp] theorem answer_error (s : State) (e : OpError) :
    s.answer (.error e) = failed s (statusCode e) (infoWord e) := rfl

/-- The status of an answer says whether it is OK. -/
@[simp] theorem lastResponse_withResponse (s : State) (r : Response) : lastResponse (withResponse s r) = some r := by
  simp [lastResponse, withResponse]

theorem statusCode_ne_zero (e : OpError) : statusCode e ≠ 0 := by cases e <;> simp [statusCode]

/-! What follows from a configuration. -/

theorem byteWidth_cases (c : Config) :
    (byteWidth c = 2 ∧ wordBits c = 16) ∨ (byteWidth c = 4 ∧ wordBits c = 32) ∨ (byteWidth c = 8 ∧ wordBits c = 64) := by
  unfold byteWidth wordBits
  cases c.wordSize <;> simp

theorem byteWidth_pos (c : Config) : 0 < byteWidth c := by
  rcases byteWidth_cases c with h | h | h <;> omega

theorem wordBits_eq (c : Config) : wordBits c = 8 * byteWidth c := by
  rcases byteWidth_cases c with h | h | h <;> omega

theorem sliceBytes_eq_sliceSize (c : Config) : sliceBytes c = sliceSize c := rfl

theorem sliceBytes_pos (c : Config) (h : 1 ≤ c.expectedWordCount) : 0 < sliceBytes c :=
  Nat.mul_pos h (byteWidth_pos c)

theorem withinCapacity_iff (c : Config) (n : Nat) : withinCapacity c n = true ↔ roomFor c n := by
  unfold withinCapacity roomFor
  cases c.bufCap <;> simp

/-- The entry found under a key is one of the table's. -/
theorem lookupKey_some {table : List (Nat × α)} (h : lookupKey table key = some v) : (key, v) ∈ table := by
  induction table with
  | nil => simp [lookupKey] at h
  | cons entry rest ih =>
    unfold lookupKey at h
    split at h
    · obtain ⟨k, w⟩ := entry
      simp_all
    · exact List.mem_cons_of_mem _ (ih h)

/-- No entry is found exactly when the key is in none. -/
theorem lookupKey_none {table : List (Nat × α)} : lookupKey table key = none ↔ ∀ entry ∈ table, entry.1 ≠ key := by
  induction table with
  | nil => simp [lookupKey]
  | cons entry rest ih =>
    unfold lookupKey
    split <;> simp_all

theorem keysDistinct_iff (table : List (Nat × α)) : keysDistinct table = true ↔ (table.map (·.1)).Nodup := by
  induction table with
  | nil => simp [keysDistinct]
  | cons entry rest ih =>
    simp only [keysDistinct, Bool.and_eq_true, ih, List.map_cons, List.nodup_cons, List.all_eq_true, bne_iff_ne,
      List.mem_map]
    exact and_congr_left fun _ =>
      ⟨fun h ⟨x, hx, he⟩ => h x hx he, fun h x hx he => h ⟨x, hx, he⟩⟩

/-- The check of a hard reset is rule R262's list. -/
theorem configOk_iff (c : Config) : configOk c = true ↔ ¬ malformed c := by
  simp only [configOk, malformed, Bool.and_eq_true, decide_eq_true_eq, keysDistinct_iff, List.all_eq_true, not_or,
    not_exists, not_and, not_not, Nat.not_le, Nat.not_lt]
  unfold sliceBytes byteWidth
  constructor
  · rintro ⟨⟨⟨⟨h1, h2⟩, h3⟩, h4⟩, h5⟩
    exact ⟨by omega, h3, h4, h5, h2⟩
  · rintro ⟨h1, h3, h4, h5, h2⟩
    exact ⟨⟨⟨⟨by omega, h2⟩, h3⟩, h4⟩, h5⟩

/-! The loop of FEED. -/

/-- Where the loop meets no error it has decoded every one of its slices. -/
theorem decodeSlices_ok {c : Config} {k : Nat} {all : List Byte} {ms : List WordSeq}
    (h : decodeSlices c k all = (ms, none)) :
    ms.length = k ∧ ∀ j (hj : j < ms.length), decodeSlice c (piece all j (sliceBytes c)) = .ok ms[j] := by
  induction k generalizing all ms with
  | zero => simp_all [decodeSlices]
  | succ k ih =>
    unfold decodeSlices at h
    split at h
    · simp at h
    · rename_i m hm
      simp only [Prod.mk.injEq] at h
      obtain ⟨rfl, hn⟩ := h
      have := ih (ms := (decodeSlices c k (all.drop (sliceBytes c))).1) (Prod.ext rfl hn)
      refine ⟨by simp [this.1], fun j hj => ?_⟩
      cases j with
      | zero => simpa [piece] using hm
      | succ j =>
        have := this.2 j (by simpa using hj)
        simpa [piece, Nat.succ_mul, Nat.add_comm] using this

/-- Where it meets one, that is the error of the first slice that does not decode. -/
theorem decodeSlices_error {c : Config} {k : Nat} {all : List Byte} {ms : List WordSeq} {e : OpError}
    (h : decodeSlices c k all = (ms, some e)) :
    ms.length < k ∧ (∀ j (hj : j < ms.length), decodeSlice c (piece all j (sliceBytes c)) = .ok ms[j])
      ∧ decodeSlice c (piece all ms.length (sliceBytes c)) = .error e := by
  induction k generalizing all ms with
  | zero => simp [decodeSlices] at h
  | succ k ih =>
    unfold decodeSlices at h
    split at h
    · simp only [Prod.mk.injEq, Option.some.injEq] at h
      obtain ⟨rfl, rfl⟩ := h
      simpa [piece] using ‹_›
    · rename_i m hm
      simp only [Prod.mk.injEq] at h
      obtain ⟨rfl, hn⟩ := h
      have := ih (ms := (decodeSlices c k (all.drop (sliceBytes c))).1) (Prod.ext rfl hn)
      refine ⟨by simpa using this.1, fun j hj => ?_, ?_⟩
      · cases j with
        | zero => simpa [piece] using hm
        | succ j =>
          have := this.2.1 j (by simpa using hj)
          simpa [piece, Nat.succ_mul, Nat.add_comm] using this
      · have := this.2.2
        simpa [piece, Nat.add_mul, Nat.add_comm] using this

/-- Where every one of its slices decodes, the loop answers their messages and no error. -/
theorem decodeSlices_of_all_ok {c : Config} {all : List Byte} {ms : List WordSeq}
    (h : ∀ j (hj : j < ms.length), decodeSlice c (piece all j (sliceBytes c)) = .ok ms[j]) :
    decodeSlices c ms.length all = (ms, none) := by
  induction ms generalizing all with
  | nil => rfl
  | cons m ms ih =>
    have first : decodeSlice c (all.take (sliceBytes c)) = .ok m := by
      have first : decodeSlice c (piece all 0 (sliceBytes c)) = .ok m := h 0 (Nat.zero_lt_succ _)
      simpa [piece] using first
    have rest := ih (all := all.drop (sliceBytes c)) fun j hj => by
      have next : decodeSlice c (piece all (j + 1) (sliceBytes c)) = .ok ms[j] := h (j + 1) (Nat.succ_lt_succ hj)
      simpa [piece, Nat.succ_mul, Nat.add_comm] using next
    simp [decodeSlices, first, rest]

/-! The end of a FEED that drains every whole slice. -/

@[simp] theorem drained_cfg (s : State) (chunk : List Byte) (ms : List Message) : (drained s chunk ms).cfg = s.cfg := rfl
@[simp] theorem drained_buf (s : State) (chunk : List Byte) (ms : List Message) :
    (drained s chunk ms).buf = (s.buf ++ chunk).drop (ms.length * sliceSize s.cfg) := rfl
@[simp] theorem drained_inbox (s : State) (chunk : List Byte) (ms : List Message) :
    (drained s chunk ms).inbox = s.inbox.tail := rfl
@[simp] theorem drained_out (s : State) (chunk : List Byte) (ms : List Message) :
    (drained s chunk ms).out = s.out ++ streamed s.cfg ms ++ [.response ⟨0, 0, some (.messages ms)⟩] := rfl
@[simp] theorem drained_freeIx (s : State) (chunk : List Byte) (ms : List Message) :
    (drained s chunk ms).freeIx = s.freeIx := rfl

/-- The writes of a FEED that returns OK, in one. -/
theorem drain_eq_drained (s : State) (chunk : List Byte) (ms : List Message) :
    ((s.setBuf ((s.buf ++ chunk).drop (ms.length * sliceBytes s.cfg))).stream ms).answerOk (.messages ms)
      = drained s chunk ms := by
  unfold State.stream drained streamed
  split <;> simp_all [answered, withResponse, State.setBuf, State.signal, sliceBytes_eq_sliceSize]

/-- All that feeding bytes can do where it gives a next state: every whole slice decoded and the remainder kept, or the
error of the first slice that does not decode. -/
theorem feedBytes_next (h : feedBytes s chunk = .next t) :
    0 < sliceBytes s.cfg ∧ withinCapacity s.cfg (s.buf ++ chunk).length = true ∧
    ((∃ ms, decodeSlices s.cfg ((s.buf ++ chunk).length / sliceBytes s.cfg) (s.buf ++ chunk) = (ms, none) ∧
        t = drained s chunk (ms.map WordSeq.travel))
      ∨ ∃ ms e, decodeSlices s.cfg ((s.buf ++ chunk).length / sliceBytes s.cfg) (s.buf ++ chunk) = (ms, some e) ∧
        t = (((s.setBuf (failBuffer s.cfg s.freeIx ms.length (s.buf ++ chunk))).streamFailed
          (ms.map WordSeq.travel)).useFree).raise e) := by
  unfold feedBytes at h
  simp only [] at h
  split at h
  · cases h
  · rename_i hE
    split at h
    · rename_i hcap
      refine ⟨Nat.pos_of_ne_zero hE, hcap, ?_⟩
      split at h
      · rename_i hd
        injection h with h
        exact .inl ⟨_, Prod.ext rfl hd, h.symm.trans (drain_eq_drained ..)⟩
      · rename_i e hd
        injection h with h
        exact .inr ⟨_, e, Prod.ext rfl hd, by simpa using h.symm⟩
    · cases h

/-- Feeding a single slice's decode, per framer, ends in a WordSequence or in one of two kinds of error. -/
theorem decodeBytes_cases (c : Config) (t : List Byte) :
    (∃ data ws, framerExtract c t = .ok data ∧ extractWords c data = .ok ws ∧ decodeBytes c t = .ok (wordSeqOf c ws))
      ∨ (∃ e, framerExtract c t = .error e ∧ decodeBytes c t = .error e)
      ∨ ∃ data, framerExtract c t = .ok data ∧ extractWords c data = .error .alignment
          ∧ decodeBytes c t = .error .alignment := by
  unfold decodeBytes
  cases hf : framerExtract c t with
  | error e => exact .inr (.inl ⟨e, rfl, rfl⟩)
  | ok data =>
    cases hw : extractWords c data with
    | ok ws => exact .inl ⟨data, ws, rfl, hw, by simp [hw]⟩
    | error e =>
      have : e = .alignment := by
        unfold extractWords at hw
        split at hw <;> simp_all
      subst this
      exact .inr (.inr ⟨data, rfl, hw, by simp [hw]⟩)

/-- What is dropped after a failure is what the policy allows (rules R186, R194). -/
theorem slicesDropped_allowed (c : Config) (ix m : Nat) : dropAllowed c.feedFailPolicy m (slicesDropped c ix m) := by
  unfold slicesDropped dropAllowed
  cases c.feedFailPolicy
  case any => exact Nat.lt_succ_iff.mp (Nat.mod_lt _ (by omega))
  all_goals rfl

/-! The step. -/

/-- All that a step can do where it gives a next state: stand still, construct an instance, answer an illegal command
word, or run an instruction. -/
theorem step_next (h : step s = .next t) :
    (s.inbox = [] ∧ t = s)
      ∨ (∃ c rest, s.inbox = .hardReset c :: rest ∧ configOk c = true ∧ t = s.construct c)
      ∨ ∃ w p rest, s.inbox = .command w p :: rest ∧ configOk s.cfg = true
          ∧ ((∃ r, decode w = .error r ∧ t = s.answerIllegal) ∨ ∃ i, decode w = .ok i ∧ exec i s = .next t) := by
  unfold step fetch at h
  cases hin : s.inbox with
  | nil => simp [hin] at h; exact .inl ⟨rfl, h.symm⟩
  | cons ev rest =>
    cases ev with
    | hardReset c =>
      simp only [hin, hardReset] at h
      split at h
      · exact .inr (.inl ⟨c, rest, rfl, ‹_›, by injection h with h; exact h.symm⟩)
      · cases h
    | command w p =>
      simp only [hin] at h
      refine .inr (.inr ⟨w, p, rest, rfl, ?_⟩)
      by_cases hc : configOk s.cfg = true
      · refine ⟨hc, ?_⟩
        simp only [hc, if_true] at h
        cases hd : decode w with
        | ok i => simp only [hd] at h; exact .inr ⟨i, rfl, h⟩
        | error r => simp only [hd] at h; exact .inl ⟨r, rfl, by injection h with h; exact h.symm⟩
      · simp [hc] at h

end Sys2Proof.Machine
end

