-- ==== Sys2Proof/Laws/PerInstr.lean ====
section
/-! SUPPORT. The family EncodesItsRow: the encoded word of every instruction carries, under the mask of its row of
spec/opcode_table.json, the row's match value. -/

namespace Sys2Proof.Laws.EncodesItsRow

/-- The encoded word meets its row: opcode in bits 7:0, reserved byte zero. -/
def Statement (i : Instr) : Prop := Sys2Proof.encode i &&& 0xFF000000000000FF = BitVec.ofNat 64 (fieldsOf i).op

/-- A packed word carries its opcode and a zero reserved byte. -/
theorem packCommand_masked (f : CommandFields) :
    packCommand f &&& 0xFF000000000000FF = (BitVec.ofNat 8 f.op).setWidth 64 := by
  unfold packCommand
  generalize BitVec.ofNat 8 f.op = op
  generalize BitVec.ofNat 8 f.pos = pos
  generalize BitVec.ofNat 8 f.cnt = cnt
  generalize BitVec.ofNat 16 f.idx0 = a
  generalize BitVec.ofNat 16 f.idx1 = b
  ext i hi
  interval_cases i <;> simp [BitVec.getLsbD_of_ge]

theorem extractWords : Statement .extractWords := (packCommand_masked _).trans rfl
theorem wordToBytes : Statement .wordToBytes := (packCommand_masked _).trans rfl
theorem bytesToWord (offset : Nat) : Statement (.bytesToWord offset) := (packCommand_masked _).trans rfl
theorem validate : Statement .validate := (packCommand_masked _).trans rfl
theorem frExtract : Statement .frExtract := (packCommand_masked _).trans rfl
theorem frEncode : Statement .frEncode := (packCommand_masked _).trans rfl
theorem frValidate : Statement .frValidate := (packCommand_masked _).trans rfl
theorem extractBits (p : Nat) (n : Nat) : Statement (.extractBits p n) := (packCommand_masked _).trans rfl
theorem extractInt8 (p : Nat) (n : Nat) : Statement (.extractInt8 p n) := (packCommand_masked _).trans rfl
theorem extractInt16 (p : Nat) (n : Nat) : Statement (.extractInt16 p n) := (packCommand_masked _).trans rfl
theorem extractInt32 (p : Nat) (n : Nat) : Statement (.extractInt32 p n) := (packCommand_masked _).trans rfl
theorem extractUint8 (p : Nat) (n : Nat) : Statement (.extractUint8 p n) := (packCommand_masked _).trans rfl
theorem extractUint16 (p : Nat) (n : Nat) : Statement (.extractUint16 p n) := (packCommand_masked _).trans rfl
theorem extractUint32 (p : Nat) (n : Nat) : Statement (.extractUint32 p n) := (packCommand_masked _).trans rfl
theorem extractBool (p : Nat) : Statement (.extractBool p) := (packCommand_masked _).trans rfl
theorem extractFloat32 (p : Nat) : Statement (.extractFloat32 p) := (packCommand_masked _).trans rfl
theorem extractFloat64 (p : Nat) : Statement (.extractFloat64 p) := (packCommand_masked _).trans rfl
theorem extractAcross (i : Nat) (p : Nat) (n : Nat) : Statement (.extractAcross i p n) := (packCommand_masked _).trans rfl
theorem extractRange (i : Nat) (j : Nat) (p : Nat) : Statement (.extractRange i j p) := (packCommand_masked _).trans rfl
theorem extractField (i : Nat) (p : Nat) (n : Nat) (kind : ValueKind) : Statement (.extractField i p n kind) := (packCommand_masked _).trans rfl
theorem extractNamed (key : Nat) : Statement (.extractNamed key) := (packCommand_masked _).trans rfl
theorem feed : Statement .feed := (packCommand_masked _).trans rfl
theorem feedByte (byte : Byte) : Statement (.feedByte byte) := (packCommand_masked _).trans rfl
theorem peek : Statement .peek := (packCommand_masked _).trans rfl
theorem poll : Statement .poll := (packCommand_masked _).trans rfl
theorem reset : Statement .reset := (packCommand_masked _).trans rfl
theorem decode : Statement .decode := (packCommand_masked _).trans rfl
theorem encode : Statement .encode := (packCommand_masked _).trans rfl
theorem seqToBytes : Statement .seqToBytes := (packCommand_masked _).trans rfl
theorem seqValid : Statement .seqValid := (packCommand_masked _).trans rfl
theorem getField (key : Nat) : Statement (.getField key) := (packCommand_masked _).trans rfl
theorem getFieldRange (key : Nat) : Statement (.getFieldRange key) := (packCommand_masked _).trans rfl
theorem rdcsr (csr : Csr) : Statement (.rdcsr csr) := (packCommand_masked _).trans rfl

end Sys2Proof.Laws.EncodesItsRow
end

