-- ==== Sys2Proof/Tests/Slice0.lean ====
section
/-! SUPPORT. Tests: what WellFormed refuses, the decoding of words written out from the spec's encoding, one step of each
operation against the vectors of spec/95_test_vectors.md (the vector's id stands in the comment), and a witness for the
hypotheses of every obligation that has any. -/

namespace Sys2Proof.Tests

open Sys2Proof.Machine Sys2Proof.Safety

/-! What WellFormed refuses: an operand one past the end of its field (spec/30_encoding.md rule R72). -/

theorem test_wellFormed_refuses_index :
    (Instr.bytesToWord 65536).wellFormed = false ∧ (Instr.extractNamed 65536).wellFormed = false
      ∧ (Instr.getField 65536).wellFormed = false ∧ (Instr.getFieldRange 65536).wellFormed = false := by decide

theorem test_wellFormed_refuses_position :
    (Instr.extractBits 256 1).wellFormed = false ∧ (Instr.extractInt8 256 1).wellFormed = false
      ∧ (Instr.extractInt16 256 1).wellFormed = false ∧ (Instr.extractInt32 256 1).wellFormed = false
      ∧ (Instr.extractUint8 256 1).wellFormed = false ∧ (Instr.extractUint16 256 1).wellFormed = false
      ∧ (Instr.extractUint32 256 1).wellFormed = false ∧ (Instr.extractBool 256).wellFormed = false
      ∧ (Instr.extractFloat32 256).wellFormed = false ∧ (Instr.extractFloat64 256).wellFormed = false := by decide

theorem test_wellFormed_refuses_count :
    (Instr.extractBits 0 256).wellFormed = false ∧ (Instr.extractInt8 0 256).wellFormed = false
      ∧ (Instr.extractInt16 0 256).wellFormed = false ∧ (Instr.extractInt32 0 256).wellFormed = false
      ∧ (Instr.extractUint8 0 256).wellFormed = false ∧ (Instr.extractUint16 0 256).wellFormed = false
      ∧ (Instr.extractUint32 0 256).wellFormed = false := by decide

theorem test_wellFormed_refuses_words_operands :
    (Instr.extractAcross 65536 0 1).wellFormed = false ∧ (Instr.extractAcross 0 256 1).wellFormed = false
      ∧ (Instr.extractAcross 0 0 256).wellFormed = false ∧ (Instr.extractRange 65536 0 0).wellFormed = false
      ∧ (Instr.extractRange 0 65536 0).wellFormed = false ∧ (Instr.extractRange 0 0 256).wellFormed = false
      ∧ (Instr.extractField 65536 0 1 .int8).wellFormed = false
      ∧ (Instr.extractField 0 256 1 .int8).wellFormed = false
      ∧ (Instr.extractField 0 0 256 .int8).wellFormed = false := by decide

/-! Decoding, each word written out from rule R72 and the opcode of rule R80, or copied from a vector. -/

theorem test_decode_assembler :
    decode 0x0000000000000010 = .ok .extractWords ∧ decode 0x0000000000000011 = .ok .wordToBytes
      ∧ decode 0x0000000001000012 = .ok (.bytesToWord 1)      -- E-6
      ∧ decode 0x0000000000000013 = .ok .validate := by decide

theorem test_decode_framer :
    decode 0x0000000000000020 = .ok .frExtract ∧ decode 0x0000000000000021 = .ok .frEncode
      ∧ decode 0x0000000000000022 = .ok .frValidate := by decide

theorem test_decode_single_word :
    decode 0x0000000000080430 = .ok (.extractBits 4 8)         -- E-1
      ∧ decode 0x0000000000030331 = .ok (.extractInt8 3 3)
      ∧ decode 0x00000000000C0432 = .ok (.extractInt16 4 12)
      ∧ decode 0x0000000000210033 = .ok (.extractInt32 0 33)   -- X-40
      ∧ decode 0x0000000000080834 = .ok (.extractUint8 8 8)
      ∧ decode 0x00000000000C0435 = .ok (.extractUint16 4 12)
      ∧ decode 0x0000000000202036 = .ok (.extractUint32 32 32) := by decide

theorem test_decode_bool_and_floats :
    decode 0x0000000000000F37 = .ok (.extractBool 15)          -- X-50
      ∧ decode 0x0000000000002038 = .ok (.extractFloat32 32)   -- X-55
      ∧ decode 0x0000000000000139 = .ok (.extractFloat64 1) := by decide  -- X-60

theorem test_decode_words :
    decode 0x000000000110083A = .ok (.extractAcross 1 8 16)    -- E-2
      ∧ decode 0x000002000100083B = .ok (.extractRange 1 2 8)  -- E-3
      ∧ decode 0x0000040002040C3C = .ok (.extractField 2 12 4 .int8)  -- E-4
      ∧ decode 0x000007000000003D = .ok (.extractNamed 7) := by decide  -- E-5

theorem test_decode_reassembler :
    decode 0x0000000000000040 = .ok .feed ∧ decode 0x000000000000CD41 = .ok (.feedByte 0xCD)  -- E-7
      ∧ decode 0x0000000000000042 = .ok .peek ∧ decode 0x0000000000000043 = .ok .poll
      ∧ decode 0x0000000000000044 = .ok .reset := by decide

theorem test_decode_sequence :
    decode 0x0000000000000050 = .ok .decode ∧ decode 0x0000000000000051 = .ok .encode
      ∧ decode 0x0000000000000052 = .ok .seqToBytes ∧ decode 0x0000000000000053 = .ok .seqValid
      ∧ decode 0x0000010000000054 = .ok (.getField 1) ∧ decode 0x0000020000000055 = .ok (.getFieldRange 2)  -- W-19
      ∧ decode 0x0000000003000060 = .ok (.rdcsr .buflen) := by decide  -- E-8

/-- Vectors E-9, E-10, E-11, X-129, W-37. -/
theorem test_decode_illegal :
    decode 0x0100000000000030 = .error (.reservedByte 1) ∧ decode 0 = .error (.unknownOpcode 0)
      ∧ decode 0xFF = .error (.unknownOpcode 255) ∧ decode 0x45 = .error (.unknownOpcode 0x45)
      ∧ decode 0x0000FFFF00080430 = .ok (.extractBits 4 8)
      ∧ decode 0x00000A000001003C = .error (.reservedKind 10)
      ∧ decode 0x0000000008000060 = .error (.noSuchRegister 8) := by decide

theorem test_encode_vectors :
    encode (.extractBits 4 8) = 0x80430 ∧ encode (.extractRange 1 2 8) = 0x000002000100083B
      ∧ encode (.extractField 2 12 4 .int8) = 0x0000040002040C3C ∧ encode (.feedByte 0xCD) = 0xCD41 := by decide

/-- Rule R85: the textual form. -/
theorem test_commandText :
    commandText (.extractField 2 12 4 .int8) = "EXTRACT_FIELD pos=12, cnt=4, idx0=2, idx1=4"
      ∧ commandText .peek = "PEEK" := by decide

/-! One step of each operation. -/

/-- The configuration `W16 BE N3 P` with another width, order or framer, the pair order LoFirst. -/
def cfgOf (w : WordSize := .w16) (o : ByteOrder := .big) (n : Nat := 3) (f : Framer := .passthrough) : Config :=
  { wordSize := w, order := o, expectedWordCount := n, framer := f, pairOrder := .loFirst }

/-- An instance that holds `buf`, with a command and its payload presented. -/
def inst (c : Config) (p : Payload) (buf : List Byte := []) (word : Word := 0) : State :=
  { cfg := c, buf := buf, inbox := [.command word p], out := [], freeIx := 0 }

/-- The response of an operation. -/
def responseOf (i : Instr) (s : State) : Option Response :=
  match exec i s with
  | .next t => lastResponse t
  | _ => none

/-- The buffer after an operation. -/
def bufAfter (i : Instr) (s : State) : Option (List Byte) :=
  match exec i s with
  | .next t => some t.buf
  | _ => none

def okWith (v : Result) : Option Response := some ⟨0, 0, some v⟩
def failWith (status : BitVec 8) (info : BitVec 32 := 0) : Option Response := some ⟨status, info, none⟩

def words4 : Payload := .words [0x1234, 0x5678, 0x9ABC, 0xDEF0]

/-- A-2, A-8. -/
theorem test_extractWords :
    responseOf .extractWords (inst (cfgOf .w16 .little) (.bytes [1, 2, 3, 4, 5, 6, 7, 8]))
      = okWith (.words [0x0201, 0x0403, 0x0605, 0x0807])
    ∧ responseOf .extractWords (inst (cfgOf .w32) (.bytes [1, 2, 3, 4, 5, 6])) = failWith 1 := by decide

/-- A-22, A-28. -/
theorem test_wordToBytes :
    responseOf .wordToBytes (inst (cfgOf .w32) (.words [0x89ABCDEF])) = okWith (.bytes [0x89, 0xAB, 0xCD, 0xEF])
    ∧ exec .wordToBytes (inst (cfgOf .w16) (.words [0x10000])) matches .refused .invalidWord := by decide

/-- A-31, A-32. -/
theorem test_bytesToWord :
    responseOf (.bytesToWord 1) (inst (cfgOf .w32 .little) (.bytes [0x10, 0x20, 0x30, 0x40, 0x50]))
      = okWith (.scalar 0x50403020)
    ∧ responseOf (.bytesToWord 2) (inst (cfgOf .w32) (.bytes [0x10, 0x20, 0x30, 0x40, 0x50])) = failWith 2 := by decide

/-- A-43, A-45. -/
theorem test_validate :
    responseOf .validate (inst (cfgOf .w16 .big 3 .standardMode) (.bytes [0x02, 0x02, 0x04, 0x02]))
      = okWith (.boolean true)
    ∧ responseOf .validate (inst (cfgOf .w16 .big 3 .standardMode) (.bytes [0x02, 0x02])) = okWith (.boolean false) := by
  decide

/-- F-11, F-8. -/
theorem test_frExtract :
    responseOf .frExtract (inst (cfgOf .w16 .big 3 .standardMode) (.bytes [0x82, 0x02, 0x85, 0x02])) = failWith 4 5
    ∧ responseOf .frExtract (inst (cfgOf .w16 .big 3 .standardMode) (.bytes [0x82, 0xFE]))
      = okWith (.bytes [0x41]) := by decide

/-- F-2 in both pair orders. -/
theorem test_frEncode :
    responseOf .frEncode (inst (cfgOf .w16 .big 3 .standardMode) (.bytes [0x00, 0xFF, 0x41, 0x80]))
      = okWith (.bytes [0x00, 0x02, 0xFE, 0x03, 0x82, 0x02, 0x00, 0x03])
    ∧ responseOf .frEncode (inst { cfgOf .w16 .big 3 .standardMode with pairOrder := .hiFirst } (.bytes [0xFF]))
      = okWith (.bytes [0x03, 0xFE]) := by decide

/-- F-6 (stop bit), F-9 (odd length). -/
theorem test_frValidate :
    responseOf .frValidate (inst (cfgOf .w16 .big 3 .standardMode) (.bytes [0x82, 0x00])) = okWith (.boolean false)
    ∧ responseOf .frValidate (inst (cfgOf .w16 .big 3 .standardMode) (.bytes [0x82])) = okWith (.boolean false) := by decide

/-- X-2, X-7. -/
theorem test_extractBits :
    responseOf (.extractBits 0 64) (inst (cfgOf) (.words [0xFFFFFFFFFFFFFFFF])) = okWith (.scalar 0xFFFFFFFFFFFFFFFF)
    ∧ responseOf (.extractBits 1 64) (inst (cfgOf) (.words [5])) = failWith 3 := by decide

/-- X-21, X-26. -/
theorem test_extractInt8 :
    responseOf (.extractInt8 3 3) (inst (cfgOf) (.words [0x28])) = okWith (.scalar 0xFD)
    ∧ responseOf (.extractInt8 0 9) (inst (cfgOf) (.words [0])) = failWith 3 := by decide

/-- X-31, X-34. -/
theorem test_extractInt16 :
    responseOf (.extractInt16 4 12) (inst (cfgOf) (.words [0xABCD])) = okWith (.scalar 0xFABC)
    ∧ responseOf (.extractInt16 0 17) (inst (cfgOf) (.words [0])) = failWith 3 := by decide

/-- X-37, X-40. -/
theorem test_extractInt32 :
    responseOf (.extractInt32 8 4) (inst (cfgOf) (.words [0xF00])) = okWith (.scalar 0xFFFFFFFF)
    ∧ responseOf (.extractInt32 0 33) (inst (cfgOf) (.words [0])) = failWith 3 := by decide

/-- X-28, X-43. -/
theorem test_extractUint8 :
    responseOf (.extractUint8 8 8) (inst (cfgOf) (.words [0xABCD])) = okWith (.scalar 0xAB)
    ∧ responseOf (.extractUint8 60 8) (inst (cfgOf) (.words [0])) = failWith 3 := by decide

/-- X-35, X-44. -/
theorem test_extractUint16 :
    responseOf (.extractUint16 4 12) (inst (cfgOf) (.words [0xABCD])) = okWith (.scalar 0x0ABC)
    ∧ responseOf (.extractUint16 0 0) (inst (cfgOf) (.words [0])) = failWith 3 := by decide

/-- X-42, X-41. -/
theorem test_extractUint32 :
    responseOf (.extractUint32 32 32) (inst (cfgOf) (.words [0x0123456789ABCDEF])) = okWith (.scalar 0x01234567)
    ∧ responseOf (.extractUint32 0 32) (inst (cfgOf) (.words [0xDEADBEEF])) = okWith (.scalar 0xDEADBEEF) := by decide

/-- X-50, X-53. -/
theorem test_extractBool :
    responseOf (.extractBool 15) (inst (cfgOf) (.words [0x8000])) = okWith (.boolean true)
    ∧ responseOf (.extractBool 64) (inst (cfgOf) (.words [0x8000])) = failWith 3 := by decide

/-- X-55, X-57. -/
theorem test_extractFloat32 :
    responseOf (.extractFloat32 32) (inst (cfgOf) (.words [0xC0490FDB00000000])) = okWith (.scalar 0xC0490FDB)
    ∧ responseOf (.extractFloat32 33) (inst (cfgOf) (.words [0])) = failWith 3 := by decide

/-- X-59, X-60. -/
theorem test_extractFloat64 :
    responseOf (.extractFloat64 0) (inst (cfgOf) (.words [0x7FF0000000000001])) = okWith (.scalar 0x7FF0000000000001)
    ∧ responseOf (.extractFloat64 1) (inst (cfgOf) (.words [0])) = failWith 3 := by decide

/-- X-72, X-73, X-75, X-76, X-77. -/
theorem test_extractAcross :
    responseOf (.extractAcross 1 8 16) (inst (cfgOf) words4) = okWith (.scalar 0xBC56)
    ∧ responseOf (.extractAcross 0 12 8) (inst (cfgOf) words4) = okWith (.scalar 0x81)
    ∧ responseOf (.extractAcross 3 8 16) (inst (cfgOf) words4) = failWith 6
    ∧ responseOf (.extractAcross 4 0 8) (inst (cfgOf) words4) = failWith 2
    ∧ responseOf (.extractAcross 0 16 8) (inst (cfgOf) words4) = failWith 3 := by decide

/-- X-H6, X-H5, under Heuristic. -/
theorem test_extractAcross_heuristic :
    responseOf (.extractAcross 0 0 24) (inst { cfgOf with widthMode := .heuristic } (.words [0xFF, 0x12, 0x34]))
      = okWith (.scalar 0x3412FF)
    ∧ responseOf (.extractAcross 0 8 16) (inst { cfgOf with widthMode := .heuristic } (.words [0, 0xFFFF]))
      = okWith (.scalar 0xFF00) := by decide

/-- X-91, X-94, X-98, X-95. -/
theorem test_extractRange :
    responseOf (.extractRange 1 2 8) (inst (cfgOf) words4) = okWith (.scalar 0x9ABC56)
    ∧ responseOf (.extractRange 0 4 0) (inst (cfgOf) words4) = failWith 2
    ∧ responseOf (.extractRange 0 0 17) (inst (cfgOf) words4) = failWith 3
    ∧ responseOf (.extractRange 0 1 20) (inst (cfgOf) words4) = failWith 3 := by decide

/-- X-112, X-114, X-116, X-117, X-122. -/
theorem test_extractField :
    responseOf (.extractField 2 12 4 .int8) (inst (cfgOf) words4) = okWith (.scalar 0xF9)
    ∧ responseOf (.extractField 0 0 64 .float64) (inst (cfgOf) words4) = okWith (.scalar 0xDEF09ABC56781234)
    ∧ responseOf (.extractField 3 0 32 .uint32) (inst (cfgOf) words4) = failWith 6
    ∧ responseOf (.extractField 4 0 1 .bool) (inst (cfgOf) words4) = failWith 2
    ∧ responseOf (.extractField 0 16 1 .bool) (inst (cfgOf) words4) = failWith 3 := by decide

/-- The table of X-140. -/
def cfgNamed : Config :=
  { cfgOf with bitFields := [(7, ⟨1, 0, 16, .int16⟩)], fields := [(1, ⟨0, 0⟩), (2, ⟨1, 2⟩)] }

/-- X-140, X-141. -/
theorem test_extractNamed :
    responseOf (.extractNamed 7) (inst cfgNamed (.words [0x1234, 0xFFFE])) = okWith (.scalar 0xFFFE)
    ∧ responseOf (.extractNamed 8) (inst cfgNamed (.words [0x1234, 0xFFFE])) = failWith 5 := by decide

/-- R-4, R-2. -/
theorem test_feed :
    responseOf .feed (inst cfgOf (.bytes [8, 9, 10, 11, 12, 13, 14, 15, 16, 17, 18, 19, 20]) [7])
      = okWith (.messages [⟨[0x0708, 0x090A, 0x0B0C], 3⟩, ⟨[0x0D0E, 0x0F10, 0x1112], 3⟩])
    ∧ bufAfter .feed (inst cfgOf (.bytes [8, 9, 10, 11, 12, 13, 14, 15, 16, 17, 18, 19, 20]) [7]) = some [19, 20] := by
  decide

/-- The chunk of R-30 to R-33 and its configuration. -/
def badChunk : List Byte := [0x82, 2, 0x84, 2, 0x82, 2, 0x85, 2, 0x86, 2, 0x88, 2, 0xAA]
def cfgFail (policy : FeedFailPolicy) : Config :=
  { cfgOf .w16 .big 2 .standardMode with feedFailPolicy := policy }

/-- R-30, R-31, R-32. -/
theorem test_feed_failure :
    responseOf .feed (inst (cfgFail .keepAll) (.bytes badChunk)) = failWith 4 5
    ∧ bufAfter .feed (inst (cfgFail .keepAll) (.bytes badChunk)) = some badChunk
    ∧ bufAfter .feed (inst (cfgFail .dropDecoded) (.bytes badChunk)) = some (badChunk.drop 4)
    ∧ bufAfter .feed (inst (cfgFail .dropFailing) (.bytes badChunk)) = some [0x86, 2, 0x88, 2, 0xAA] := by decide

/-- R-13. -/
theorem test_feedByte :
    responseOf (.feedByte 0xCD) (inst (cfgOf .w16 .big 1) .nothing [0xAB]) = okWith (.messages [⟨[0xABCD], 1⟩])
    ∧ bufAfter (.feedByte 0xCD) (inst (cfgOf .w16 .big 1) .nothing [0xAB]) = some [] := by decide

/-- R-10, and R-30's PEEK. -/
theorem test_peek :
    responseOf .peek (inst cfgOf .nothing [1, 2, 3, 4]) = okWith .noMessage
    ∧ responseOf .peek (inst (cfgFail .keepAll) .nothing badChunk) = okWith (.message ⟨[0x4142], 2⟩) := by decide

/-- R-31's and R-32's POLL. -/
theorem test_poll :
    responseOf .poll (inst (cfgFail .dropDecoded) .nothing (badChunk.drop 4)) = failWith 4 5
    ∧ bufAfter .poll (inst (cfgFail .dropFailing) .nothing (badChunk.drop 8)) = some [0xAA] := by decide

/-- R-12. -/
theorem test_reset :
    responseOf .reset (inst cfgOf .nothing [1, 2, 3, 4]) = okWith .nothing
    ∧ bufAfter .reset (inst cfgOf .nothing [1, 2, 3, 4]) = some [] := by decide

/-- W-7, W-9. -/
theorem test_decode :
    responseOf .decode (inst (cfgOf .w16 .big 2 .standardMode) (.bytes [0x82, 2, 0x84, 2, 0x86, 2, 0x88, 2]))
      = okWith (.message ⟨[0x4142, 0x4344], 2⟩)
    ∧ responseOf .decode (inst (cfgOf .w16 .big 2 .standardMode) (.bytes [0x83, 2, 0x84, 2])) = failWith 4 1 := by decide

/-- W-10, W-13. -/
theorem test_encode :
    responseOf .encode (inst (cfgOf .w16 .big 3 .standardMode) (.words [0x4142])) = okWith (.bytes [0x82, 2, 0x84, 2])
    ∧ responseOf .encode (inst (cfgOf .w64 .little) (.words [0x0123456789ABCDEF]))
      = okWith (.bytes [0xEF, 0xCD, 0xAB, 0x89, 0x67, 0x45, 0x23, 0x01]) := by decide

/-- W-15, W-16. -/
theorem test_seqToBytes :
    responseOf .seqToBytes (inst (cfgOf .w16 .little) (.words [0x0102, 0x0304])) = okWith (.bytes [2, 1, 4, 3])
    ∧ responseOf .seqToBytes (inst (cfgOf .w16 .big 3 .standardMode) (.words [0x0102])) = okWith (.bytes [1, 2]) := by decide

/-- W-17. -/
theorem test_seqValid :
    responseOf .seqValid (inst cfgOf (.words [1, 2, 3])) = okWith (.boolean true)
    ∧ responseOf .seqValid (inst cfgOf (.words [1, 2, 3, 4])) = okWith (.boolean false) := by decide

/-- W-18. -/
theorem test_getField :
    responseOf (.getField 2) (inst cfgNamed (.words [0x0102, 0x0304, 0x0506])) = okWith (.scalar 0x0304)
    ∧ responseOf (.getField 9) (inst cfgNamed (.words [0x0102, 0x0304, 0x0506])) = failWith 5 := by decide

/-- W-19, W-20. -/
theorem test_getFieldRange :
    responseOf (.getFieldRange 2) (inst cfgNamed (.words [0x0102, 0x0304, 0x0506])) = okWith (.words [0x0304, 0x0506])
    ∧ responseOf (.getFieldRange 2) (inst cfgNamed (.words [0x0102, 0x0304])) = failWith 2 := by decide

/-- W-38, W-36. -/
theorem test_rdcsr :
    responseOf (.rdcsr .cfg0) (inst { cfgOf .w64 .little 3 .standardMode with
        widthMode := .heuristic, pairOrder := .hiFirst, stream := true, feedFailPolicy := .dropFailing } .nothing)
      = okWith (.scalar 0x1FE)
    ∧ responseOf (.rdcsr .bufcap) (inst cfgOf .nothing) = okWith (.scalar 0xFFFFFFFFFFFFFFFF) := by decide

/-- What a step answers, and the buffer it leaves. -/
def stepAnswer (s : State) : Option (Option Response × List Byte) :=
  match step s with
  | .next t => some (lastResponse t, t.buf)
  | _ => none

/-- X-129: an illegal command word is answered by the step with STATUS 7 and changes nothing. A payload of the wrong
kind likewise (rule R82). -/
theorem test_step_illegal :
    stepAnswer (inst cfgOf (.words [1]) [1, 2] 0x00000A000001003C) = some (failWith 7, [1, 2])
    ∧ stepAnswer (inst cfgOf (.words [1]) [1, 2] 0x40) = some (failWith 7, [1, 2]) := by decide

/-- The fetch interface: the word placed is the instruction the next step runs, from reset. -/
theorem test_withFetchWord :
    decodeTableWord 64 0x080430 = some (.extractBits 4 8)
    ∧ stepAnswer (State.reset.withFetchWord 64 0x080430) = some (okWith (.scalar 0), [])
    ∧ stepAnswer (State.reset.withFetchWord 64 0x40) = some (okWith (.messages []), []) := by decide

/-- MSG_OUT events come before the response, in order (rule R198, R-4 with STREAM = On). -/
theorem test_stream :
    (match exec .feed (inst { cfgOf .w16 .big 1 with stream := true } (.bytes [1, 2, 3, 4])) with
      | .next t => t.out
      | _ => [])
    = [.msgOut ⟨[0x0102], 1⟩, .msgOut ⟨[0x0304], 1⟩, .response ⟨0, 0, some (.messages [⟨[0x0102], 1⟩, ⟨[0x0304], 1⟩])⟩] := by
  decide

/-! Witnesses: for each obligation with hypotheses, a state and operands that meet them, at the boundary of each clause. -/

theorem presents_inst (c : Config) (p : Payload) (buf : List Byte) (word : Word) : presents (inst c p buf word) p :=
  ⟨word, [], rfl⟩

theorem wellFormed_cfg {c : Config} (h : configOk c = true) : ¬ malformed c := (configOk_iff c).1 h

def std (n : Nat := 2) : Config := cfgOf .w16 .big n .standardMode

/-- A StandardMode instance that streams. -/
def stdStreaming : Config := { std with stream := true }

/-- A slice of two good symbols. -/
def goodSlice : List Byte := [0x82, 2, 0x84, 2]

/-- A slice whose second symbol has a bad start bit. -/
def badSlice : List Byte := [0x82, 2, 0x85, 2]

theorem witness_DecodeInvertsEncode :
    (Instr.extractField 65535 255 255 .rawBits).wellFormed = true ∧ (Instr.extractRange 65535 65535 255).wellFormed = true
      ∧ (Instr.getField 65535).wellFormed = true := by decide

theorem witness_UnreadFieldsAreIgnored :
    ∃ row ∈ opcodeRows, (0x0000FFFF00080430 : Word).toNat % 256 = row.1
      ∧ (0x0000FFFF00080430 : Word) &&& (row.2.2 ||| 0xFF000000000000FF) = 0x80430 &&& (row.2.2 ||| 0xFF000000000000FF) := by
  decide

theorem witness_StepRunsTheDecodedCommand :
    (inst cfgOf (.words [5]) [] 0x080430).inbox = .command 0x080430 (.words [5]) :: [] ∧ ¬ malformed cfgOf
      ∧ Sys2Proof.decode 0x080430 = .ok (.extractBits 4 8) :=
  ⟨rfl, wellFormed_cfg (by decide), by decide⟩

theorem witness_IllegalCommandAnsweredWithStatusSeven :
    (inst cfgOf .nothing).inbox = .command 0 .nothing :: [] ∧ ¬ malformed cfgOf ∧ illegalCommand 0 .nothing
      ∧ illegalCommand 0x0000000008000060 .nothing ∧ illegalCommand 0x00000A000001003C (.words [1])
      ∧ illegalCommand 0x0100000000000040 (.bytes []) ∧ illegalCommand 0x40 (.words []) := by
  refine ⟨rfl, wellFormed_cfg (by decide), .inl (.inl (by decide)), .inl (.inr (.inr (.inr (by decide)))),
    .inl (.inr (.inr (.inl (by decide)))), .inl (.inr (.inl (by decide))),
    .inr ⟨(0x40, .bytes, 0), by decide, by decide, ?_⟩⟩
  rintro ⟨bs, h⟩
  cases h

theorem witness_NothingPresentedNothingChanges : State.reset.inbox = [] := rfl

theorem witness_MalformedConfigurationIsRefused :
    ({ inst cfgOf .nothing with inbox := [.hardReset (cfgOf .w16 .big 0)] }).inbox = .hardReset (cfgOf .w16 .big 0) :: []
      ∧ (inst (cfgOf .w16 .big 0) .nothing).inbox = .command 0 .nothing :: [] ∧ malformed (cfgOf .w16 .big 0) :=
  ⟨rfl, rfl, .inl rfl⟩

theorem witness_HardResetSetsConfigurationAndEmptiesBuffer :
    ({ inst cfgOf .nothing [1] with inbox := [.hardReset (cfgOf .w16 .big 1)] }).inbox = .hardReset (cfgOf .w16 .big 1) :: []
      ∧ ¬ malformed (cfgOf .w16 .big 1) :=
  ⟨rfl, wellFormed_cfg (by decide)⟩

theorem witness_AssemblyRoundTrips :
    2 ∈ [2, 4, 8] ∧ (0xFFFF : Word).toNat < 2 ^ (8 * 2) ∧ ([1, 2] : List Byte).length = 2 := by decide

/-- For every statement about bytes: any bytes can be presented. -/
theorem witness_ExtractWordsGivesWindowSums :
    presents (inst cfgOf (.bytes [1, 2])) (.bytes [1, 2]) ∧ presents (inst cfgOf (.bytes [1])) (.bytes [1]) :=
  ⟨presents_inst .., presents_inst ..⟩

theorem witness_WordToBytesGivesTheWordsBytes :
    presents (inst cfgOf (.words [0xFFFF])) (.words [0xFFFF]) ∧ (0xFFFF : Word).toNat < 2 ^ wordBits cfgOf
      ∧ presents (inst cfgOf (.words [0x10000])) (.words [0x10000]) ∧ 2 ^ wordBits cfgOf ≤ (0x10000 : Word).toNat :=
  ⟨presents_inst .., by decide, presents_inst .., by decide⟩

theorem witness_BytesToWordGivesTheWindowSum : presents (inst cfgOf (.bytes [1, 2])) (.bytes [1, 2]) := presents_inst ..

theorem witness_WordAndByteOperationsAgree :
    (0xFFFF : Word).toNat < 2 ^ wordBits cfgOf ∧ ([1, 2] : List Byte).length = byteWidth cfgOf
      ∧ ([1, 2, 3, 4] : List Byte).length % byteWidth cfgOf = 0 := by decide

theorem witness_ValidateTestsFramingThenAlignment : presents (inst cfgOf (.bytes [])) (.bytes []) := presents_inst ..
theorem witness_ValidatePredictsDecode : presents (inst cfgOf (.bytes [1])) (.bytes [1]) := presents_inst ..

theorem witness_FrameExtractionReportsTheFirstBadSymbol :
    presents (inst cfgOf (.bytes [1])) (.bytes [1]) ∧ cfgOf.framer = .passthrough
      ∧ std.framer = .standardMode
      ∧ presents (inst std (.bytes [0x82])) (.bytes [0x82]) ∧ ([0x82] : List Byte).length % 2 = 1
      ∧ presents (inst std (.bytes [0x82, 2])) (.bytes [0x82, 2]) ∧ wellFramed std.pairOrder [0x82, 2]
      ∧ presents (inst std (.bytes [0x82, 2, 0x85, 2])) (.bytes [0x82, 2, 0x85, 2])
      ∧ ([0x82, 2, 0x85, 2] : List Byte).length % 2 = 0 ∧ 1 < ([0x82, 2, 0x85, 2] : List Byte).length / 2
      ∧ (∀ j < 1, goodSymbol (pairAt std.pairOrder [0x82, 2, 0x85, 2] j))
      ∧ ¬ goodSymbol (pairAt std.pairOrder [0x82, 2, 0x85, 2] 1) := by
  refine ⟨presents_inst .., rfl, rfl, presents_inst .., rfl, presents_inst .., ?_, presents_inst .., ?_⟩
  · unfold wellFramed goodSymbol
    decide
  · unfold goodSymbol
    decide

theorem witness_FrameEncodingWritesSymbols : presents (inst std (.bytes [0x41])) (.bytes [0x41]) := presents_inst ..
theorem witness_FrameValidationTestsEverySymbol : presents (inst std (.bytes [])) (.bytes []) := presents_inst ..

theorem witness_ExtractBitsGivesTheField : presents (inst cfgOf (.words [7])) (.words [7]) := presents_inst ..
theorem witness_SignedExtractorsSignExtend : presents (inst cfgOf (.words [7])) (.words [7]) := presents_inst ..
theorem witness_UnsignedExtractorsZeroExtend : presents (inst cfgOf (.words [7])) (.words [7]) := presents_inst ..
theorem witness_ExtractBoolTestsOneBit : presents (inst cfgOf (.words [7])) (.words [7]) := presents_inst ..
theorem witness_FloatExtractorsKeepThePattern : presents (inst cfgOf (.words [7])) (.words [7]) := presents_inst ..

theorem witness_TypedIntegersDenoteTheField :
    typedInt .int8 0x80 0 8 = .ok ⟨.int8, 0x80⟩ ∧ ValueKind.int8 ∈ [ValueKind.int8, .int16, .int32]
      ∧ typedInt .uint8 0x80 0 8 = .ok ⟨.uint8, 0x80⟩ ∧ ValueKind.uint8 ∈ [ValueKind.uint8, .uint16, .uint32] := by decide

theorem witness_WordWidthIsConfiguredOrDetected :
    cfgOf.widthMode = .configured ∧ ({ cfgOf with widthMode := .heuristic } : Config).widthMode = .heuristic := by decide

theorem witness_ExtractAcrossGivesTheJoinedField : presents (inst cfgOf words4) words4 := presents_inst ..
theorem witness_ExtractRangeGivesAllBitsOfTheRange : presents (inst cfgOf words4) words4 := presents_inst ..
theorem witness_ExtractFieldGivesTheTypedField : presents (inst cfgOf words4) words4 := presents_inst ..

theorem witness_ExtractNamedLooksUpTheField :
    presents (inst cfgNamed words4) words4 ∧ ¬ malformed cfgNamed ∧ (∀ entry ∈ cfgNamed.bitFields, entry.1 ≠ 8)
      ∧ (7, ⟨1, 0, 16, .int16⟩) ∈ cfgNamed.bitFields :=
  ⟨presents_inst .., wellFormed_cfg (by decide), by decide, by decide⟩

theorem witness_SliceDecodingByFramer :
    ([1, 2, 3, 4, 5, 6] : List Byte).length = sliceSize cfgOf ∧ 1 ≤ cfgOf.expectedWordCount
      ∧ ([0x82, 2, 0x84, 2] : List Byte).length = sliceSize std ∧ wellFramed std.pairOrder [0x82, 2, 0x84, 2]
      ∧ std.expectedWordCount % 2 = 0
      ∧ ([0x82, 2] : List Byte).length = sliceSize (std 1) ∧ wellFramed (std 1).pairOrder [0x82, 2]
      ∧ (std 1).expectedWordCount % 2 = 1
      ∧ badSlice.length = sliceSize std ∧ ¬ wellFramed std.pairOrder badSlice
      ∧ (inst std (.bytes badSlice)).cfg = std ∧ presents (inst std (.bytes badSlice)) (.bytes badSlice) := by
  refine ⟨by decide, by decide, by decide, ?_, by decide, by decide, ?_, by decide, by decide, ?_, rfl, presents_inst ..⟩ <;>
    unfold wellFramed goodSymbol <;> decide

theorem roomFor_unbounded {c : Config} (h : c.bufCap = none) (n : Nat) : roomFor c n := by
  intro cap hc
  rw [h] at hc
  cases hc

theorem witness_FeedDrainsEveryWholeSlice :
    presents (inst cfgOf (.bytes [1])) (.bytes [1]) ∧ cfgOf.framer = .passthrough ∧ 1 ≤ cfgOf.expectedWordCount
      ∧ roomFor cfgOf ((inst cfgOf (.bytes [1])).buf ++ [1]).length
      ∧ presents (inst { cfgOf with bufCap := some 6 } (.bytes [1, 2, 3, 4, 5, 6])) (.bytes [1, 2, 3, 4, 5, 6])
      ∧ roomFor { cfgOf with bufCap := some 6 } ([] ++ [1, 2, 3, 4, 5, 6] : List Byte).length :=
  ⟨presents_inst .., rfl, by decide, roomFor_unbounded rfl _, presents_inst .., fun cap h => by
    injection h with h
    simp only [List.nil_append, List.length_cons, List.length_nil]
    omega⟩

/-- The first clause under StandardMode, where the instance streams: one whole slice and one byte more. -/
theorem witness_FeedDrainsEveryWholeSlice_standardMode :
    presents (inst stdStreaming (.bytes (goodSlice ++ [0x82]))) (.bytes (goodSlice ++ [0x82]))
      ∧ stdStreaming.framer = .standardMode ∧ stdStreaming.stream = true ∧ 1 ≤ stdStreaming.expectedWordCount
      ∧ roomFor stdStreaming ([] ++ (goodSlice ++ [0x82])).length
      ∧ ([⟨[0x4142], 2, []⟩] : List WordSeq).length = ([] ++ (goodSlice ++ [0x82])).length / sliceSize stdStreaming
      ∧ ∀ j (h : j < ([⟨[0x4142], 2, []⟩] : List WordSeq).length),
          decodeSlice stdStreaming (piece ([] ++ (goodSlice ++ [0x82])) j (sliceSize stdStreaming))
            = .ok ([⟨[0x4142], 2, []⟩] : List WordSeq)[j] :=
  ⟨presents_inst .., rfl, rfl, by decide, roomFor_unbounded rfl _, by decide, by decide⟩

theorem witness_FeedCountingLaw :
    presents (inst (cfgOf .w16 .big 1) (.bytes [1, 2, 3])) (.bytes [1, 2, 3])
      ∧ (∃ t, exec .feed (inst (cfgOf .w16 .big 1) (.bytes [1, 2, 3])) = .next t
        ∧ t.out = [] ++ [] ++ [.response ⟨0, 0, some (.messages [⟨[0x0102], 1⟩])⟩])
      ∧ presents (inst stdStreaming (.bytes goodSlice)) (.bytes goodSlice)
      ∧ ∃ t, exec .feed (inst stdStreaming (.bytes goodSlice)) = .next t
        ∧ t.out = [] ++ [.msgOut ⟨[0x4142], 2⟩] ++ [.response ⟨0, 0, some (.messages [⟨[0x4142], 2⟩])⟩] :=
  ⟨presents_inst .., ⟨_, rfl, by decide⟩, presents_inst .., _, rfl, by decide⟩

theorem witness_FailedFeedFollowsThePolicy :
    presents (inst std (.bytes badChunk)) (.bytes badChunk) ∧ 1 ≤ std.expectedWordCount ∧ roomFor std 13
      ∧ (∀ j (h : j < ([⟨[0x4142], 2, []⟩] : List WordSeq).length),
          decodeSlice std (piece ([] ++ badChunk) j (sliceSize std)) = .ok ([⟨[0x4142], 2, []⟩] : List WordSeq)[j])
      ∧ (1 + 1) * sliceSize std ≤ ([] ++ badChunk).length
      ∧ decodeSlice std (piece ([] ++ badChunk) 1 (sliceSize std)) = .error (.framing .startBit 1) :=
  ⟨presents_inst .., by decide, roomFor_unbounded rfl _, by decide, by decide, by decide⟩

theorem witness_FeedByteIsFeedOfOneByte :
    presents (inst cfgOf .nothing) .nothing ∧ cfgOf.framer = .passthrough ∧ 1 ≤ cfgOf.expectedWordCount
      ∧ roomFor cfgOf (0 + 1) :=
  ⟨presents_inst .., rfl, by decide, roomFor_unbounded rfl _⟩

theorem witness_FeedBeyondCapacityIsRefused :
    ({ cfgOf with bufCap := some 3 } : Config).bufCap = some 3 ∧ 1 ≤ cfgOf.expectedWordCount ∧ 3 < [1, 2, 3].length + [4].length
      ∧ presents (inst { cfgOf with bufCap := some 3 } (.bytes [4]) [1, 2, 3]) (.bytes [4])
      ∧ presents (inst { cfgOf with bufCap := some 3 } .nothing [1, 2, 3]) .nothing :=
  ⟨rfl, by decide, by decide, presents_inst .., presents_inst ..⟩

/-- The three clauses of PEEK: one byte short of a slice, a whole slice that decodes, one that does not. -/
theorem witness_PeekShowsTheFrontMessage :
    presents (inst std .nothing [1, 2, 3]) .nothing ∧ (inst std .nothing [1, 2, 3]).buf.length < sliceSize std
      ∧ presents (inst std .nothing goodSlice) .nothing ∧ sliceSize std ≤ (inst std .nothing goodSlice).buf.length
      ∧ decodeSlice std ((inst std .nothing goodSlice).buf.take (sliceSize std)) = .ok ⟨[0x4142], 2, []⟩
      ∧ presents (inst std .nothing badSlice) .nothing ∧ sliceSize std ≤ (inst std .nothing badSlice).buf.length
      ∧ decodeSlice std ((inst std .nothing badSlice).buf.take (sliceSize std)) = .error (.framing .startBit 1) :=
  ⟨presents_inst .., by decide, presents_inst .., by decide, by decide, presents_inst .., by decide, by decide⟩

/-- The three clauses of POLL: as PEEK's. -/
theorem witness_PollRemovesTheFrontMessage :
    presents (inst std .nothing [1, 2, 3]) .nothing ∧ (inst std .nothing [1, 2, 3]).buf.length < sliceSize std
      ∧ presents (inst std .nothing goodSlice) .nothing ∧ sliceSize std ≤ (inst std .nothing goodSlice).buf.length
      ∧ decodeSlice std ((inst std .nothing goodSlice).buf.take (sliceSize std)) = .ok ⟨[0x4142], 2, []⟩
      ∧ presents (inst std .nothing badSlice) .nothing ∧ sliceSize std ≤ (inst std .nothing badSlice).buf.length
      ∧ decodeSlice std ((inst std .nothing badSlice).buf.take (sliceSize std)) = .error (.framing .startBit 1) :=
  witness_PeekShowsTheFrontMessage

theorem witness_ResetDiscardsTheBuffer : presents (inst cfgOf .nothing [1, 2]) .nothing := presents_inst ..

theorem witness_ResetEqualsHardResetInPlace :
    ¬ malformed cfgOf
      ∧ (∃ t, exec .reset { inst cfgOf .nothing [1] with inbox := .command 0 .nothing :: [] } = .next t)
      ∧ ∃ u, step { inst cfgOf .nothing [1] with inbox := .hardReset cfgOf :: [] } = .next u :=
  ⟨wellFormed_cfg (by decide), ⟨_, rfl⟩, ⟨_, rfl⟩⟩

theorem witness_FedBytesAreConserved :
    ∃ t ms, (inst (cfgOf .w16 .big 1) .nothing).buf = []
      ∧ feedRun (inst (cfgOf .w16 .big 1) .nothing) [.feed [1, 2, 3], .feedByte 4] = some (t, ms) ∧ ms.length = 2 :=
  ⟨_, _, rfl, rfl, rfl⟩

theorem witness_ChunkBoundariesDoNotMatter :
    ((inst (cfgOf .w16 .big 1) .nothing [9]).buf.length < sliceSize (cfgOf .w16 .big 1)
      ∧ fedBytes [.feed [1, 2], .feedByte 3] = fedBytes [.feed [1, 2, 3]]
      ∧ (∃ t ms, feedRun (inst (cfgOf .w16 .big 1) .nothing [9]) [.feed [1, 2], .feedByte 3] = some (t, ms))
      ∧ ∃ t ms, feedRun (inst (cfgOf .w16 .big 1) .nothing [9]) [.feed [1, 2, 3]] = some (t, ms))
    ∧ ([1, 2] : List Byte).length = sliceSize (cfgOf .w16 .big 1)
    ∧ (∃ t ms, feedRun (inst (cfgOf .w16 .big 1) .nothing) ((([1, 2] : List Byte).take 2).map .feedByte) = some (t, ms))
    ∧ ∃ t ms, feedRun (inst (cfgOf .w16 .big 1) .nothing) ((([1, 2] : List Byte).take 1).map .feedByte) = some (t, ms) :=
  ⟨⟨by decide, by decide, ⟨_, _, rfl⟩, ⟨_, _, rfl⟩⟩, by decide, ⟨_, _, rfl⟩, ⟨_, _, rfl⟩⟩

theorem witness_OkOperationsLeaveNoMessagePending :
    ∃ t r, exec .feed (inst cfgOf (.bytes [1, 2, 3, 4, 5, 6])) = .next t ∧ lastResponse t = some r ∧ r.status = 0
      ∧ 1 ≤ cfgOf.expectedWordCount ∧ (inst cfgOf (.bytes [])).buf.length < sliceSize cfgOf :=
  ⟨_, _, rfl, rfl, rfl, by decide, by decide⟩

theorem witness_DecodeRunsThePipeline :
    presents (inst cfgOf (.bytes [1, 2])) (.bytes [1, 2]) ∧ cfgOf.framer = .passthrough ∧ std.framer = .standardMode
      ∧ presents (inst std (.bytes goodSlice)) (.bytes goodSlice) ∧ wellFramed std.pairOrder goodSlice
      ∧ presents (inst std (.bytes [0x82])) (.bytes [0x82]) ∧ ¬ wellFramed std.pairOrder [0x82] := by
  refine ⟨presents_inst .., rfl, rfl, presents_inst .., ?_, presents_inst .., ?_⟩ <;>
    unfold wellFramed goodSymbol <;> decide

theorem witness_EncodeWritesFramedBytes :
    presents (inst cfgOf (.words [0xFFFF])) (.words [0xFFFF]) ∧ allValid cfgOf [0xFFFF]
      ∧ presents (inst cfgOf (.words [0x10000])) (.words [0x10000]) ∧ ¬ allValid cfgOf [0x10000] := by
  refine ⟨presents_inst .., ?_, presents_inst .., ?_⟩ <;> simp [allValid, cfgOf, wordBits]

theorem witness_SeqToBytesWritesDataBytes :
    presents (inst cfgOf (.words [0xFFFF])) (.words [0xFFFF]) ∧ allValid cfgOf [0xFFFF]
      ∧ presents (inst cfgOf (.words [0x10000])) (.words [0x10000]) ∧ ¬ allValid cfgOf [0x10000] :=
  witness_EncodeWritesFramedBytes

theorem witness_PipelineRoundTrips :
    allValid cfgOf [0xFFFF, 0] ∧ decodeBytes std [0x82, 2, 0x84, 2] = .ok ⟨[0x4142], 2, []⟩
      ∧ (∀ k < ([0x82, 2, 0x84, 2] : List Byte).length / 2, pairAt std.pairOrder [0x82, 2, 0x84, 2] k < 1024) := by
  refine ⟨by simp [allValid, cfgOf, wordBits], by decide, by decide⟩

theorem witness_SeqValidComparesTheCount : presents (inst cfgOf (.words [])) (.words []) := presents_inst ..

theorem witness_NamedRangesGiveTheirWords :
    presents (inst cfgNamed words4) words4 ∧ ¬ malformed cfgNamed ∧ (∀ entry ∈ cfgNamed.fields, entry.1 ≠ 9)
      ∧ (2, ⟨1, 2⟩) ∈ cfgNamed.fields :=
  ⟨presents_inst .., wellFormed_cfg (by decide), by decide, by decide⟩

theorem witness_StatusRegistersReadTheirNumbers : presents (inst cfgOf .nothing) .nothing := presents_inst ..

theorem witness_OnlyTheReassemblerWritesState :
    writesBuffer .decode = false ∧ ∃ t, exec .decode (inst cfgOf (.bytes [1, 2])) = .next t :=
  ⟨rfl, _, rfl⟩

theorem witness_PureOperationsIgnoreTheBuffer :
    readsBuffer .decode = false ∧ ∃ t, exec .decode (inst cfgOf (.bytes [1, 2])) = .next t :=
  ⟨rfl, _, rfl⟩

theorem witness_OperationsFailOnlyAsTabled :
    ∃ t r, ¬ malformed cfgOf ∧ presents (inst cfgOf (.bytes [1])) (.bytes [1])
      ∧ rightPayload (payloadKindOf .decode) (.bytes [1]) ∧ exec .decode (inst cfgOf (.bytes [1])) = .next t
      ∧ lastResponse t = some r ∧ r.status = 1 :=
  ⟨_, _, wellFormed_cfg (by decide), presents_inst .., ⟨_, rfl⟩, rfl, rfl, rfl⟩

theorem witness_StepKeepsTheInstanceWellFormed :
    instanceOk (inst cfgOf (.bytes [1]) [] 0x40) ∧ ∃ t, step (inst cfgOf (.bytes [1]) [] 0x40) = .next t :=
  ⟨⟨wellFormed_cfg (by decide), roomFor_unbounded rfl _⟩, _, rfl⟩

theorem witness_StepKeepsResponsesWellFormed :
    responsesOk (inst cfgOf (.bytes [1]) [] 0x40) ∧ ∃ t, step (inst cfgOf (.bytes [1]) [] 0x40) = .next t :=
  ⟨fun r h => by simp [inst] at h, _, rfl⟩

end Sys2Proof.Tests
end

section
/-! The frame of every operation: what `exec` can do where it gives a next state, said once, and from it what no operation
writes (spec/10_state.md rules R20, R30) and when a complete message can be pending (rules R32, R200). -/

namespace Sys2Proof.Machine

open Sys2Proof.Safety

/-! The fields of a state that only answers. -/

@[simp] theorem withResponse_cfg (s : State) (r : Response) : (withResponse s r).cfg = s.cfg := rfl
@[simp] theorem withResponse_buf (s : State) (r : Response) : (withResponse s r).buf = s.buf := rfl
@[simp] theorem withResponse_inbox (s : State) (r : Response) : (withResponse s r).inbox = s.inbox.tail := rfl
@[simp] theorem withResponse_out (s : State) (r : Response) : (withResponse s r).out = s.out ++ [.response r] := rfl
@[simp] theorem withResponse_freeIx (s : State) (r : Response) : (withResponse s r).freeIx = s.freeIx := rfl

@[simp] theorem answer_cfg (s : State) (v : Except OpError Result) : (s.answer v).cfg = s.cfg := by
  cases v <;> rfl
@[simp] theorem answer_buf (s : State) (v : Except OpError Result) : (s.answer v).buf = s.buf := by
  cases v <;> rfl
@[simp] theorem answer_inbox (s : State) (v : Except OpError Result) : (s.answer v).inbox = s.inbox.tail := by
  cases v <;> rfl
@[simp] theorem answer_freeIx (s : State) (v : Except OpError Result) : (s.answer v).freeIx = s.freeIx := by
  cases v <;> rfl
/-- Returning or raising, a pure operation sends one response. -/
theorem answer_out (s : State) (v : Except OpError Result) : ∃ r, (s.answer v).out = s.out ++ [.response r] := by
  cases v <;> exact ⟨_, rfl⟩

/-- A failed operation's last response is not OK, whatever it wrote before. -/
theorem status_ne_zero_of_raise {s : State} {e : OpError} {r : Response} (h : lastResponse (s.raise e) = some r) :
    r.status ≠ 0 := by
  rw [raise_eq_failed, failed, lastResponse_withResponse, Option.some.injEq] at h
  exact h ▸ statusCode_ne_zero e

/-- Nor is the response to an illegal command. -/
theorem status_ne_zero_of_answerIllegal {s : State} {r : Response} (h : lastResponse s.answerIllegal = some r) :
    r.status ≠ 0 := by
  rw [answerIllegal_eq_failed, failed, lastResponse_withResponse, Option.some.injEq] at h
  subst h
  decide

/-! The endings of an operation that writes nothing. -/

/-- Where the ending is a next state, it is an answer to the command presented and no more. -/
def AnswersOnly (s : State) (e : Ending) : Prop :=
  ∀ t, e = .next t → t = s.answerIllegal ∨ ∃ v, t = s.answer v

section
variable {s : State}

theorem answersOnly_answer (v : Except OpError Result) : AnswersOnly s (.next (s.answer v)) := by
  intro t h
  injection h with h
  exact .inr ⟨v, h.symm⟩

theorem answersOnly_answerOk (v : Result) : AnswersOnly s (.next (s.answerOk v)) := answersOnly_answer (.ok v)

theorem answersOnly_refused (why : Refusal) : AnswersOnly s (.refused why) := fun _ h => by cases h

theorem answersOnly_ite {c : Prop} [Decidable c] {e e' : Ending} (h : AnswersOnly s e) (h' : AnswersOnly s e') :
    AnswersOnly s (if c then e else e') := by
  split
  · exact h
  · exact h'

theorem answersOnly_withBytes {body : List Byte → Ending} (h : ∀ bs, AnswersOnly s (body bs)) :
    AnswersOnly s (withBytes s body) := fun t ht => by
  obtain ⟨bs, -, hb⟩ | rfl := withBytes_next ht
  · exact h bs t hb
  · exact .inl rfl

theorem answersOnly_withWords {body : List Word → Ending} (h : ∀ ws, AnswersOnly s (body ws)) :
    AnswersOnly s (withWords s body) := fun t ht => by
  obtain ⟨ws, -, hb⟩ | rfl := withWords_next ht
  · exact h ws t hb
  · exact .inl rfl

theorem answersOnly_withWord {body : Word → Ending} (h : ∀ w, AnswersOnly s (body w)) :
    AnswersOnly s (withWord s body) := fun t ht => by
  obtain ⟨w, -, hb⟩ | rfl := withWord_next ht
  · exact h w t hb
  · exact .inl rfl

theorem answersOnly_withNothing {body : Ending} (h : AnswersOnly s body) : AnswersOnly s (withNothing s body) :=
  fun t ht => by
  obtain ⟨-, hb⟩ | rfl := withNothing_next ht
  · exact h t hb
  · exact .inl rfl

end

/-- Rule R30: the operations not listed there answer and write nothing. -/
theorem exec_answersOnly {i : Instr} (hi : writesBuffer i = false) (s : State) : AnswersOnly s (exec i s) := by
  cases i with
  | feed | feedByte | poll | reset => cases hi
  | extractWords | bytesToWord | frExtract | decode => exact answersOnly_withBytes fun _ => answersOnly_answer _
  | validate | frEncode | frValidate => exact answersOnly_withBytes fun _ => answersOnly_answerOk _
  | extractBits | extractInt8 | extractInt16 | extractInt32 | extractUint8 | extractUint16 | extractUint32
  | extractBool | extractFloat32 | extractFloat64 => exact answersOnly_withWord fun _ => answersOnly_answer _
  | wordToBytes =>
    exact answersOnly_withWord fun _ => answersOnly_ite (answersOnly_answerOk _) (answersOnly_refused _)
  | extractAcross | extractRange | extractField | extractNamed | getField | getFieldRange =>
    exact answersOnly_withWords fun _ => answersOnly_answer _
  | encode | seqToBytes =>
    exact answersOnly_withWords fun _ => answersOnly_ite (answersOnly_answerOk _) (answersOnly_refused _)
  | seqValid => exact answersOnly_withWords fun _ => answersOnly_answerOk _
  | peek => exact answersOnly_withNothing (answersOnly_ite (answersOnly_answer _) (answersOnly_answerOk _))
  | rdcsr => exact answersOnly_withNothing (answersOnly_answerOk _)

/-! All that `exec` can do. -/

/-- FEED or FEED_BYTE. -/
def feeds (i : Instr) : Prop := i = .feed ∨ ∃ byte, i = .feedByte byte

theorem not_feeds_of_writesBuffer {i : Instr} (hi : writesBuffer i = false) : ¬ feeds i := by
  rintro (rfl | ⟨_, rfl⟩) <;> cases hi

/-- The next states an operation can give: the command is illegal; it is answered and nothing is written; bytes are fed; a
slice leaves the buffer with its message, or by the policy after an error; the buffer is emptied. -/
inductive ExecNext (i : Instr) (s : State) : State → Prop where
  | illegal : ExecNext i s s.answerIllegal
  | answer (hi : ¬ feeds i) (v : Except OpError Result) : ExecNext i s (s.answer v)
  | fed {t : State} (hi : feeds i) (chunk : List Byte) (h : feedBytes s chunk = .next t) : ExecNext i s t
  | polled (hi : i = .poll) (m : WordSeq) (h : decodeSlice s.cfg (s.buf.take (sliceBytes s.cfg)) = .ok m) :
    ExecNext i s ((s.setBuf (s.buf.drop (sliceBytes s.cfg))).answerOk (.message m.travel))
  | pollFailed (hi : i = .poll) (e : OpError) (h : decodeSlice s.cfg (s.buf.take (sliceBytes s.cfg)) = .error e) :
    ExecNext i s (((s.setBuf (failBuffer s.cfg s.freeIx 0 s.buf)).useFree).raise e)
  | emptied (hi : i = .reset) : ExecNext i s ((s.setBuf []).answerOk .nothing)

theorem execPoll_next {s t : State} (h : execPoll s = .next t) : ExecNext .poll s t := by
  have hi : ¬ feeds .poll := by simp [feeds]
  obtain ⟨-, h⟩ | rfl := withNothing_next h
  · split at h
    · split at h <;> injection h with h <;> subst h
      · exact .polled rfl _ ‹_›
      · exact .pollFailed rfl _ ‹_›
    · injection h with h
      exact h ▸ .answer hi (.ok .noMessage)
  · exact .illegal

/-- Every next state of `exec` is one of these. -/
theorem exec_next {i : Instr} {s t : State} (h : exec i s = .next t) : ExecNext i s t := by
  cases hw : writesBuffer i with
  | false =>
    obtain rfl | ⟨v, rfl⟩ := exec_answersOnly hw s t h
    · exact .illegal
    · exact .answer (not_feeds_of_writesBuffer hw) v
  | true =>
    cases i with
    | feed =>
      obtain ⟨chunk, -, hf⟩ | rfl := withBytes_next h
      · exact .fed (.inl rfl) chunk hf
      · exact .illegal
    | feedByte byte =>
      obtain ⟨-, hf⟩ | rfl := withNothing_next h
      · exact .fed (.inr ⟨byte, rfl⟩) [byte] hf
      · exact .illegal
    | poll => exact execPoll_next h
    | reset =>
      obtain ⟨-, hr⟩ | rfl := withNothing_next h
      · injection hr with hr
        exact hr ▸ .emptied rfl
      · exact .illegal
    | _ => cases hw

/-! What feeding bytes keeps and sends. -/

/-- What is sent between two states is one response, with MSG_OUT events before it only where `streams` holds. -/
def Sends (streams : Prop) (s t : State) : Prop :=
  ∃ (ms : List Message) (r : Response), t.out = s.out ++ ms.map .msgOut ++ [.response r] ∧ (ms = [] ∨ streams)

theorem sends_response {streams : Prop} {s t : State} (h : ∃ r, t.out = s.out ++ [.response r]) :
    Sends streams s t := by
  obtain ⟨r, hr⟩ := h
  exact ⟨[], r, by simpa using hr, .inl rfl⟩

theorem feedBytes_cfg {s t : State} {chunk : List Byte} (h : feedBytes s chunk = .next t) : t.cfg = s.cfg := by
  obtain ⟨-, -, ⟨ms, -, rfl⟩ | ⟨ms, e, -, rfl⟩⟩ := feedBytes_next h
  · rfl
  · simp [failed]

theorem feedBytes_inbox {s t : State} {chunk : List Byte} (h : feedBytes s chunk = .next t) :
    t.inbox = s.inbox.tail := by
  obtain ⟨-, -, ⟨ms, -, rfl⟩ | ⟨ms, e, -, rfl⟩⟩ := feedBytes_next h
  · rfl
  · simp [failed]

/-- Rule R198: one response, and before it, where the configuration streams, the messages' events. -/
theorem feedBytes_out {s t : State} {chunk : List Byte} (h : feedBytes s chunk = .next t) :
    Sends (s.cfg.stream = true) s t := by
  obtain ⟨-, -, ⟨ms, -, rfl⟩ | ⟨ms, e, -, rfl⟩⟩ := feedBytes_next h
  · by_cases hs : s.cfg.stream = true
    · exact ⟨ms.map WordSeq.travel, ⟨0, 0, some (.messages (ms.map WordSeq.travel))⟩, by simp [streamed, hs], .inr hs⟩
    · exact sends_response ⟨⟨0, 0, some (.messages (ms.map WordSeq.travel))⟩, by simp [streamed, hs]⟩
  · obtain hout | ⟨hs, hout⟩ := State.streamFailed_out
      (s.setBuf (failBuffer s.cfg s.freeIx ms.length (s.buf ++ chunk))) (ms.map WordSeq.travel)
    · exact sends_response ⟨⟨statusCode e, infoWord e, none⟩, by simp [failed, hout]⟩
    · exact ⟨ms.map WordSeq.travel, ⟨statusCode e, infoWord e, none⟩, by simp [failed, hout], .inr hs⟩

/-- Rule R32: where feeding bytes is OK, every whole slice has left the buffer: what stays is the remainder of the bytes by
the slice size. -/
theorem feedBytes_ok_buf_length {s t : State} {chunk : List Byte} {r : Response} (h : feedBytes s chunk = .next t)
    (hr : lastResponse t = some r) (hok : r.status = 0) :
    t.buf.length = (s.buf ++ chunk).length % sliceSize s.cfg := by
  obtain ⟨-, -, ⟨ms, hms, rfl⟩ | ⟨ms, e, -, rfl⟩⟩ := feedBytes_next h
  · have hlen : ms.length = (s.buf ++ chunk).length / sliceSize s.cfg := (decodeSlices_ok hms).1
    rw [drained_buf, List.length_drop, List.length_map, hlen, Nat.mod_eq_sub_div_mul]
  · exact absurd hok (status_ne_zero_of_raise hr)

/-! What every operation keeps and sends. -/

/-- Rule R20. -/
theorem exec_cfg {i : Instr} {s t : State} (h : exec i s = .next t) : t.cfg = s.cfg := by
  cases exec_next h with
  | answer _ v => exact answer_cfg s v
  | fed _ _ hf => exact feedBytes_cfg hf
  | illegal | polled | pollFailed | emptied => rfl

/-- The command presented, and no other, is answered. -/
theorem exec_inbox {i : Instr} {s t : State} (h : exec i s = .next t) : t.inbox = s.inbox.tail := by
  cases exec_next h with
  | answer _ v => exact answer_inbox s v
  | fed _ _ hf => exact feedBytes_inbox hf
  | illegal | polled | pollFailed | emptied => rfl

/-- Rule R30. -/
theorem exec_buf_freeIx {i : Instr} {s t : State} (hi : writesBuffer i = false) (h : exec i s = .next t) :
    t.buf = s.buf ∧ t.freeIx = s.freeIx := by
  obtain rfl | ⟨v, rfl⟩ := exec_answersOnly hi s t h
  · exact ⟨rfl, rfl⟩
  · exact ⟨answer_buf s v, answer_freeIx s v⟩

/-- Rules R61, R198: one response, and before it the events of a streaming FEED or FEED_BYTE. -/
theorem exec_out {i : Instr} {s t : State} (h : exec i s = .next t) : Sends (s.cfg.stream = true ∧ feeds i) s t := by
  cases exec_next h with
  | answer _ v => exact sends_response (answer_out s v)
  | fed hi _ hf =>
    obtain ⟨ms, r, hout, hms⟩ := feedBytes_out hf
    exact ⟨ms, r, hout, hms.imp_right fun hs => ⟨hs, hi⟩⟩
  | illegal | polled | pollFailed | emptied => exact sends_response ⟨_, rfl⟩

/-- Settles O52: `exec` gives no other next states than `ExecNext` lists, and each keeps its frame. -/
theorem onlyTheReassemblerWritesState : Obligations.OnlyTheReassemblerWritesState :=
  fun _ _ _ h => ⟨exec_cfg h, exec_inbox h, fun hi => exec_buf_freeIx hi h, exec_out h⟩

/-- Rule R32: an OK FEED or FEED_BYTE leaves less than a slice, whatever the buffer held. -/
theorem exec_feeds_ok_buf_length_lt {i : Instr} {s t : State} {r : Response} (hi : feeds i) (h : exec i s = .next t)
    (hr : lastResponse t = some r) (hok : r.status = 0) (hE : 0 < sliceSize s.cfg) : t.buf.length < sliceSize s.cfg := by
  cases exec_next h with
  | fed _ _ hf => exact feedBytes_ok_buf_length hf hr hok ▸ Nat.mod_lt _ hE
  | illegal => exact absurd hok (status_ne_zero_of_answerIllegal hr)
  | answer hn => exact absurd hi hn
  | polled hp | pollFailed hp | emptied hp => subst hp; simp [feeds] at hi

/-- Rule R200: an operation that returns OK, other than FEED and FEED_BYTE, never lengthens the buffer. -/
theorem exec_ok_buf_length_le {i : Instr} {s t : State} {r : Response} (hi : ¬ feeds i) (h : exec i s = .next t)
    (hr : lastResponse t = some r) (hok : r.status = 0) : t.buf.length ≤ s.buf.length := by
  cases exec_next h with
  | answer _ v => exact (congrArg List.length (answer_buf s v)).le
  | polled => exact (List.drop_sublist _ _).length_le
  | emptied => exact Nat.zero_le _
  | fed hf => exact absurd hf hi
  | illegal => exact absurd hok (status_ne_zero_of_answerIllegal hr)
  | pollFailed => exact absurd hok (status_ne_zero_of_raise hr)

/-- Settles O44: an OK FEED leaves a remainder smaller than a slice, and no other OK operation lengthens the buffer. -/
theorem okOperationsLeaveNoMessagePending : Obligations.OkOperationsLeaveNoMessagePending := by
  intro i s t r hN h hr hok
  have hE : 0 < sliceSize s.cfg := sliceBytes_pos s.cfg hN
  rw [exec_cfg h]
  by_cases hi : feeds i
  · have hlt := exec_feeds_ok_buf_length_lt hi h hr hok hE
    exact ⟨fun _ => hlt, fun _ => hlt⟩
  · exact ⟨fun hf => absurd hf hi, (exec_ok_buf_length_le hi h hr hok).trans_lt⟩

end Sys2Proof.Machine
end

section
/-! Rule R55: assembly and disassembly invert each other. Both orders come down to Little, where a window's first byte is
the low byte of its word. -/

namespace Sys2Proof.Machine

/-! Big is Little on the reversed window. -/

theorem assemble_big (win : List Byte) : assemble .big win = assemble .little win.reverse := by
  simp [assemble]

theorem disassemble_big (n : Nat) (w : Word) : disassemble .big n w = (disassemble .little n w).reverse := by
  apply List.ext_getElem
  · simp [disassemble]
  · intro j _ _
    simp [disassemble]

@[simp] theorem length_disassemble (order : ByteOrder) (n : Nat) (w : Word) : (disassemble order n w).length = n := by
  cases order <;> simp [disassemble]

/-! Little, byte by byte. -/

/-- The word whose low byte is `b`, above it the bits of `a` (one turn of rule R52's fold). -/
def pushByte (a : Word) (b : Byte) : Word := (a <<< 8) ||| b.setWidth 64

@[simp] theorem assemble_little_nil : assemble .little [] = 0 := rfl

theorem assemble_little_cons (b : Byte) (bs : List Byte) :
    assemble .little (b :: bs) = pushByte (assemble .little bs) b := by
  simp [assemble, foldBytes, pushByte]

@[simp] theorem disassemble_little_zero (w : Word) : disassemble .little 0 w = [] := rfl

theorem byteOfWord_succ (w : Word) (k : Nat) : byteOfWord w (k + 1) = byteOfWord (w >>> 8) k := by
  simp [byteOfWord, BitVec.shiftRight_add, Nat.mul_succ, Nat.add_comm]

theorem disassemble_little_succ (n : Nat) (w : Word) :
    disassemble .little (n + 1) w = byteOfWord w 0 :: disassemble .little n (w >>> 8) := by
  simp [disassemble, List.range_succ_eq_map, byteOfWord_succ, Function.comp_def]

theorem toNat_byteOfWord (w : Word) (k : Nat) : (byteOfWord w k).toNat = w.toNat / 2 ^ (8 * k) % 256 := by
  have low : (w >>> (8 * k)).toNat &&& (255 : Word).toNat = (w >>> (8 * k)).toNat % 256 :=
    Nat.and_two_pow_sub_one_eq_mod _ 8
  rw [byteOfWord, BitVec.toNat_setWidth, BitVec.toNat_and, low, BitVec.toNat_ushiftRight, Nat.shiftRight_eq_div_pow,
    Nat.mod_mod]

/-- Where the shift loses no bit. -/
theorem toNat_pushByte {a : Word} (h : a.toNat < 2 ^ 56) (b : Byte) :
    (pushByte a b).toNat = a.toNat * 256 + b.toNat := by
  have hb : b.toNat < 2 ^ 8 := b.isLt
  have join := Nat.shiftLeft_add_eq_or_of_lt hb a.toNat
  have shift : a.toNat <<< 8 = a.toNat * 256 := Nat.shiftLeft_eq _ _
  simp only [pushByte, BitVec.toNat_or, BitVec.toNat_shiftLeft, BitVec.toNat_setWidth]
  rw [Nat.mod_eq_of_lt (by omega : a.toNat <<< 8 < 2 ^ 64), Nat.mod_eq_of_lt (by omega : b.toNat < 2 ^ 64), ← join,
    shift]

theorem byteOfWord_pushByte {a : Word} (h : a.toNat < 2 ^ 56) (b : Byte) : byteOfWord (pushByte a b) 0 = b := by
  apply BitVec.eq_of_toNat_eq
  rw [toNat_byteOfWord, toNat_pushByte h]
  omega

theorem pushByte_shiftRight {a : Word} (h : a.toNat < 2 ^ 56) (b : Byte) : pushByte a b >>> 8 = a := by
  apply BitVec.eq_of_toNat_eq
  rw [BitVec.toNat_ushiftRight, toNat_pushByte h, Nat.shiftRight_eq_div_pow]
  omega

theorem pushByte_byteOfWord (w : Word) : pushByte (w >>> 8) (byteOfWord w 0) = w := by
  have hs : (w >>> 8).toNat = w.toNat / 256 := by rw [BitVec.toNat_ushiftRight, Nat.shiftRight_eq_div_pow]
  apply BitVec.eq_of_toNat_eq
  rw [toNat_pushByte (by omega), toNat_byteOfWord, hs]
  omega

/-- A window of `n` bytes assembles to a value of `n` bytes. -/
theorem assemble_little_lt (win : List Byte) (h : win.length ≤ 8) :
    (assemble .little win).toNat < 2 ^ (8 * win.length) := by
  induction win with
  | nil => simp
  | cons b bs ih =>
    have hlen : bs.length ≤ 7 := Nat.le_of_succ_le_succ h
    have small := ih (by omega)
    have fits : (assemble .little bs).toNat < 2 ^ 56 :=
      small.trans_le (Nat.pow_le_pow_right (by omega) (by omega))
    have byte := b.isLt
    rw [assemble_little_cons, toNat_pushByte fits, List.length_cons, Nat.mul_add, Nat.pow_add]
    omega

/-! The two laws. -/

/-- Rule R55 (a), Little. -/
theorem assemble_disassemble_little (n : Nat) (w : Word) (h : w.toNat < 2 ^ (8 * n)) :
    assemble .little (disassemble .little n w) = w := by
  induction n generalizing w with
  | zero =>
    have zero : w.toNat = 0 := Nat.lt_one_iff.mp h
    exact (BitVec.eq_of_toNat_eq zero).symm
  | succ n ih =>
    have small : (w >>> 8).toNat < 2 ^ (8 * n) := by
      rw [BitVec.toNat_ushiftRight, Nat.shiftRight_eq_div_pow]
      rw [Nat.mul_succ, Nat.pow_add] at h
      exact Nat.div_lt_of_lt_mul (by omega)
    rw [disassemble_little_succ, assemble_little_cons, ih _ small, pushByte_byteOfWord]

/-- Rule R55 (b), Little. -/
theorem disassemble_assemble_little (win : List Byte) (h : win.length ≤ 8) :
    disassemble .little win.length (assemble .little win) = win := by
  induction win with
  | nil => rfl
  | cons b bs ih =>
    have hlen : bs.length ≤ 7 := Nat.le_of_succ_le_succ h
    have fits : (assemble .little bs).toNat < 2 ^ 56 :=
      (assemble_little_lt bs (by omega)).trans_le (Nat.pow_le_pow_right (by omega) (by omega))
    rw [List.length_cons, disassemble_little_succ, assemble_little_cons, byteOfWord_pushByte fits,
      pushByte_shiftRight fits, ih (by omega)]

/-- Rule R55 (a): a value of `n` bytes is the word of its bytes. -/
theorem assemble_disassemble (order : ByteOrder) (n : Nat) (w : Word) (h : w.toNat < 2 ^ (8 * n)) :
    assemble order (disassemble order n w) = w := by
  cases order with
  | little => exact assemble_disassemble_little n w h
  | big => rw [disassemble_big, assemble_big, List.reverse_reverse, assemble_disassemble_little n w h]

/-- Rule R55 (b): a window of at most 8 bytes is the bytes of its word. -/
theorem disassemble_assemble (order : ByteOrder) (win : List Byte) (h : win.length ≤ 8) :
    disassemble order win.length (assemble order win) = win := by
  cases order with
  | little => exact disassemble_assemble_little win h
  | big =>
    have back := disassemble_assemble_little win.reverse (by simpa using h)
    rw [List.length_reverse] at back
    rw [assemble_big, disassemble_big, back, List.reverse_reverse]

/-- Settles O10: the laws hold of every width up to 8 bytes. -/
theorem assemblyRoundTrips : Obligations.AssemblyRoundTrips := by
  intro order n hn
  have width : n ≤ 8 := by
    simp only [List.mem_cons, List.not_mem_nil, or_false] at hn
    omega
  refine ⟨assemble_disassemble order n, ?_⟩
  rintro win rfl
  exact disassemble_assemble order win width

end Sys2Proof.Machine
end

section
/-! Rule R67: along FEED and FEED_BYTE commands that return OK no byte is lost, doubled or moved. `Drains` says what one OK
feed does with the bytes it finds, and two drains in a row make one. -/

namespace Sys2Proof.Machine

open Sys2Proof.Safety

/-! Bytes cut into slices. -/

/-- `all` is slices that decode to the messages `ms`, in order, and after them the bytes `rest`. -/
inductive Drains (c : Config) : List Byte → List Message → List Byte → Prop where
  | done (rest : List Byte) : Drains c rest [] rest
  | slice {slice all rest : List Byte} {m : WordSeq} {ms : List Message} (hlen : slice.length = sliceSize c)
      (hm : decodeSlice c slice = .ok m) (h : Drains c all ms rest) : Drains c (slice ++ all) (m.travel :: ms) rest

section
variable {c : Config} {all rest : List Byte} {ms : List Message}

theorem drains_length (h : Drains c all ms rest) : ms.length * sliceSize c + rest.length = all.length := by
  induction h with
  | done => simp
  | slice hlen _ _ ih => rw [List.length_cons, List.length_append, Nat.succ_mul]; omega

/-- Message `k` is the decode of slice `k`. -/
theorem drains_getElem (h : Drains c all ms rest) (k : Nat) (hk : k < ms.length) :
    ∃ m, decodeSlice c (piece all k (sliceSize c)) = .ok m ∧ ms[k] = m.travel := by
  induction h generalizing k with
  | done => simp at hk
  | @slice slice all _ m _ hlen hm _ ih =>
    cases k with
    | zero => exact ⟨m, by simpa [piece, ← hlen] using hm, rfl⟩
    | succ k =>
      have behind : piece (slice ++ all) (k + 1) (sliceSize c) = piece all k (sliceSize c) := by
        rw [piece, Nat.succ_mul, Nat.add_comm, ← List.drop_drop, List.drop_left' hlen, piece]
      rw [behind]
      exact ih k (Nat.lt_of_succ_lt_succ hk)

/-- What a drain leaves is drained on, with the bytes that have come in meanwhile. -/
theorem drains_append {mid more : List Byte} {ms' : List Message} (h : Drains c all ms mid)
    (h' : Drains c (mid ++ more) ms' rest) : Drains c (all ++ more) (ms ++ ms') rest := by
  induction h with
  | done => exact h'
  | slice hlen hm _ ih => exact List.append_assoc .. ▸ .slice hlen hm (ih h')

/-- Whole slices that decode drain away, and the bytes behind them stay. -/
theorem drains_of_pieces {ws : List WordSeq} (hfit : ws.length * sliceSize c ≤ all.length)
    (hws : ∀ j (hj : j < ws.length), decodeSlice c (piece all j (sliceSize c)) = .ok ws[j]) :
    Drains c all (ws.map WordSeq.travel) (all.drop (ws.length * sliceSize c)) := by
  induction ws generalizing all with
  | nil => simpa using Drains.done (c := c) all
  | cons m ws ih =>
    rw [List.length_cons, Nat.succ_mul, Nat.add_comm] at hfit ⊢
    have first : decodeSlice c (all.take (sliceSize c)) = .ok m := by
      simpa [piece] using hws 0 (Nat.succ_pos _)
    have others := ih (all := all.drop (sliceSize c)) (by rw [List.length_drop]; omega) fun j hj => by
      simpa [piece, Nat.succ_mul, Nat.add_comm] using hws (j + 1) (Nat.succ_lt_succ hj)
    have joined := Drains.slice (List.length_take_of_le (by omega)) first others
    rwa [List.take_append_drop, List.drop_drop] at joined

end

/-- An OK feed drains the buffer with the chunk behind it. -/
theorem feedBytes_ok {s t : State} {chunk : List Byte} {r : Response} {ms : List Message}
    (h : feedBytes s chunk = .next t) (hr : lastResponse t = some r) (hok : r.status = 0)
    (hms : r.result = some (.messages ms)) : t.cfg = s.cfg ∧ Drains s.cfg (s.buf ++ chunk) ms t.buf := by
  refine ⟨feedBytes_cfg h, ?_⟩
  obtain ⟨-, -, ⟨ws, hws, rfl⟩ | ⟨ws, e, -, rfl⟩⟩ := feedBytes_next h
  · obtain ⟨hlen, hdec⟩ := decodeSlices_ok hws
    have last : lastResponse (drained s chunk (ws.map WordSeq.travel))
        = some ⟨0, 0, some (.messages (ws.map WordSeq.travel))⟩ := by simp [lastResponse]
    cases last.symm.trans hr
    cases hms
    rw [drained_buf, List.length_map]
    exact drains_of_pieces (hlen ▸ Nat.div_mul_le_self _ _) hdec
  · exact absurd hok (status_ne_zero_of_raise hr)

/-! The feeding commands as the block reads them. -/

/-- `OP` of a packed word. -/
theorem opField_packCommand (f : CommandFields) : opField (packCommand f) = f.op % 256 := by
  have bits : (packCommand f).extractLsb' 0 8 = BitVec.ofNat 8 f.op := by
    unfold packCommand
    generalize BitVec.ofNat 8 f.op = op
    ext i hi
    interval_cases i <;> simp
  simp [opField, bits]

/-- `RSV` of a packed word. -/
theorem rsvField_packCommand (f : CommandFields) : rsvField (packCommand f) = 0 := by
  have bits : (packCommand f).extractLsb' 56 8 = 0 := by
    unfold packCommand
    ext i hi
    interval_cases i <;> simp [BitVec.getLsbD_of_ge]
  simp [rsvField, bits]

/-- `POS` of a packed word. -/
theorem posBits_packCommand (f : CommandFields) : (packCommand f).extractLsb' 8 8 = BitVec.ofNat 8 f.pos := by
  unfold packCommand
  generalize BitVec.ofNat 8 f.pos = pos
  ext i hi
  interval_cases i <;> simp [BitVec.getLsbD_of_ge]

theorem decode_encode_feed : decode (encode .feed) = .ok .feed := by decide

theorem decode_encode_feedByte (byte : Byte) : decode (encode (.feedByte byte)) = .ok (.feedByte byte) := by
  have op : opField (encode (.feedByte byte)) = 0x41 := opField_packCommand _
  have pos : (encode (.feedByte byte)).extractLsb' 8 8 = byte := by
    simp [encode, fieldsOf, posBits_packCommand]
  simp [decode, decodeOpcode, op, pos, show rsvField (encode (.feedByte byte)) = 0 from rsvField_packCommand _]

/-- A step that answers an encoded command runs its instruction. -/
theorem exec_of_step_command {s t : State} {i : Instr} {p : Payload} {rest : List HostEvent}
    (hin : s.inbox = .command (encode i) p :: rest) (hd : decode (encode i) = .ok i) (h : step s = .next t) :
    exec i s = .next t := by
  obtain ⟨hnil, -⟩ | ⟨c, rest', hreset, -⟩ | ⟨w, p', rest', hcmd, -, hrun⟩ := step_next h
  · cases hin.symm.trans hnil
  · cases hin.symm.trans hreset
  · cases hin.symm.trans hcmd
    obtain ⟨r, hr, -⟩ | ⟨j, hj, he⟩ := hrun
    · cases hd.symm.trans hr
    · cases hd.symm.trans hj
      exact he

/-- The state in which a feeding command stands presented alone. -/
def presentFeed (s : State) (op : FeedOp) : State := { s with inbox := [op.event] }

theorem feedBytes_of_step_presentFeed {s t : State} {op : FeedOp} (h : step (presentFeed s op) = .next t) :
    feedBytes (presentFeed s op) op.fed = .next t := by
  cases op with
  | feed chunk =>
    have run : withBytes _ _ = _ := exec_of_step_command rfl decode_encode_feed h
    rwa [withBytes_of_presents ⟨_, [], rfl⟩] at run
  | feedByte byte =>
    have run : withNothing _ _ = _ := exec_of_step_command rfl (decode_encode_feedByte byte) h
    rwa [withNothing_of_presents ⟨_, [], rfl⟩] at run

/-! Sequences of OK feeds. -/

/-- What it takes for a feeding command to be counted: an OK response with messages. -/
theorem feedOne_some {s t : State} {op : FeedOp} {ms : List Message} (h : feedOne s op = some (t, ms)) :
    ∃ r, step (presentFeed s op) = .next t ∧ lastResponse t = some r ∧ r.status = 0
      ∧ r.result = some (.messages ms) := by
  unfold feedOne at h
  split at h
  next t' hstep =>
    split at h
    next r hr =>
      split at h
      next hok =>
        split at h
        next ms' hms =>
          cases h
          exact ⟨r, hstep, hr, hok, hms⟩
        next => cases h
      next => cases h
    next => cases h
  next => cases h

/-- One OK feed. -/
theorem feedOne_drains {s t : State} {op : FeedOp} {ms : List Message} (h : feedOne s op = some (t, ms)) :
    t.cfg = s.cfg ∧ Drains s.cfg (s.buf ++ op.fed) ms t.buf := by
  obtain ⟨r, hstep, hr, hok, hms⟩ := feedOne_some h
  exact feedBytes_ok (s := presentFeed s op) (feedBytes_of_step_presentFeed hstep) hr hok hms

theorem feedRun_cons {s u : State} {op : FeedOp} {ops : List FeedOp} {all : List Message}
    (h : feedRun s (op :: ops) = some (u, all)) :
    ∃ t ms more, feedOne s op = some (t, ms) ∧ feedRun t ops = some (u, more) ∧ all = ms ++ more := by
  unfold feedRun at h
  split at h
  next => cases h
  next t ms hone =>
    split at h
    next => cases h
    next v more hrun =>
      cases h
      exact ⟨t, ms, more, hone, hrun, rfl⟩

/-- A sequence of OK feeds drains the buffer with all the bytes fed behind it. -/
theorem feedRun_drains {s t : State} {ops : List FeedOp} {ms : List Message} (h : feedRun s ops = some (t, ms)) :
    Drains s.cfg (s.buf ++ fedBytes ops) ms t.buf := by
  induction ops generalizing s ms with
  | nil =>
    obtain ⟨rfl, rfl⟩ : s = t ∧ [] = ms := by simpa [feedRun] using h
    simpa [fedBytes] using Drains.done (c := s.cfg) s.buf
  | cons op ops ih =>
    obtain ⟨mid, ms, more, hone, hrun, rfl⟩ := feedRun_cons h
    obtain ⟨hcfg, hfirst⟩ := feedOne_drains hone
    have hlater : Drains s.cfg (mid.buf ++ fedBytes ops) more t.buf := hcfg ▸ ih hrun
    simpa [fedBytes] using drains_append hfirst hlater

/-- Settles O42: the run drains the bytes fed, since it begins with an empty buffer. -/
theorem fedBytesAreConserved : Obligations.FedBytesAreConserved := by
  intro s t ops ms hbuf hrun _
  have drains : Drains s.cfg (fedBytes ops) ms t.buf := by simpa [hbuf] using feedRun_drains hrun
  exact ⟨drains_length drains, drains_getElem drains⟩

end Sys2Proof.Machine
end

section
/-! Rule R65: the operations that read no mutable state. Each runs the same from a state that differs in what the
reassembler alone may read, the buffer and the index of the free values. -/

namespace Sys2Proof.Machine

open Sys2Proof.Safety

/-- The same state with another buffer and another index of the free values. -/
def State.rebuffer (bytes : List Byte) (ix : Nat) (s : State) : State := { s with buf := bytes, freeIx := ix }

/-- The same ending, its next state with another buffer. -/
def rebufferEnding (bytes : List Byte) (ix : Nat) : Ending → Ending
  | .next t => .next (t.rebuffer bytes ix)
  | .fault why => .fault why
  | .refused why => .refused why

section
variable {s : State} {bytes : List Byte} {ix : Nat}

theorem answer_rebuffer (v : Except OpError Result) :
    .next ((s.rebuffer bytes ix).answer v) = rebufferEnding bytes ix (.next (s.answer v)) := by
  cases v <;> rfl

theorem answerOk_rebuffer (v : Result) :
    .next ((s.rebuffer bytes ix).answerOk v) = rebufferEnding bytes ix (.next (s.answerOk v)) := rfl

/-- WORD_TO_BYTES, ENCODE and SEQ_TO_BYTES refuse an invalid Word whatever the buffer. -/
theorem answerOk_or_refused_rebuffer (c : Prop) [Decidable c] (v : Result) (why : Refusal) :
    (if c then .next ((s.rebuffer bytes ix).answerOk v) else .refused why)
      = rebufferEnding bytes ix (if c then .next (s.answerOk v) else .refused why) := by
  split <;> rfl

theorem payloadOf_rebuffer : payloadOf (s.rebuffer bytes ix) = payloadOf s := rfl

theorem withBytes_rebuffer {body body' : List Byte → Ending} (h : ∀ bs, body' bs = rebufferEnding bytes ix (body bs)) :
    withBytes (s.rebuffer bytes ix) body' = rebufferEnding bytes ix (withBytes s body) := by
  unfold withBytes
  rw [payloadOf_rebuffer]
  split
  · exact h _
  · rfl

theorem withWords_rebuffer {body body' : List Word → Ending} (h : ∀ ws, body' ws = rebufferEnding bytes ix (body ws)) :
    withWords (s.rebuffer bytes ix) body' = rebufferEnding bytes ix (withWords s body) := by
  unfold withWords
  rw [payloadOf_rebuffer]
  split
  · exact h _
  · rfl

theorem withWord_rebuffer {body body' : Word → Ending} (h : ∀ w, body' w = rebufferEnding bytes ix (body w)) :
    withWord (s.rebuffer bytes ix) body' = rebufferEnding bytes ix (withWord s body) := by
  unfold withWord
  rw [payloadOf_rebuffer]
  split
  · exact h _
  · rfl

end

/-- Rule R65: such an operation ends the same whatever the buffer holds; a refusal is the same too. -/
theorem exec_rebuffer {i : Instr} (hi : readsBuffer i = false) (s : State) (bytes : List Byte) (ix : Nat) :
    exec i (s.rebuffer bytes ix) = rebufferEnding bytes ix (exec i s) := by
  cases i with
  | feed | feedByte | peek | poll | reset | rdcsr => cases hi
  | extractWords | bytesToWord | frExtract | decode => exact withBytes_rebuffer fun _ => answer_rebuffer _
  | validate | frEncode | frValidate => exact withBytes_rebuffer fun _ => answerOk_rebuffer _
  | extractBits | extractInt8 | extractInt16 | extractInt32 | extractUint8 | extractUint16 | extractUint32
  | extractBool | extractFloat32 | extractFloat64 => exact withWord_rebuffer fun _ => answer_rebuffer _
  | wordToBytes => exact withWord_rebuffer fun _ => answerOk_or_refused_rebuffer _ _ _
  | extractAcross | extractRange | extractField | extractNamed | getField | getFieldRange =>
    exact withWords_rebuffer fun _ => answer_rebuffer _
  | encode | seqToBytes => exact withWords_rebuffer fun _ => answerOk_or_refused_rebuffer _ _ _
  | seqValid => exact withWords_rebuffer fun _ => answerOk_rebuffer _

/-- Settles O53: where the operation gives a next state, so it does from the other buffer, and the same one. -/
theorem pureOperationsIgnoreTheBuffer : Obligations.PureOperationsIgnoreTheBuffer := by
  intro i s t bytes ix hi h
  have same := exec_rebuffer hi s bytes ix
  rw [h] at same
  exact same

end Sys2Proof.Machine
end

section
/-! The command word as numbers (spec/30_encoding.md rules R72, R80 to R83): what stands in each field of an encoded word,
which fields a row of the opcode map reads, and when a word decodes. -/

namespace Sys2Proof.Machine

open Sys2Proof.Safety

/-! The fields of a word are quotients and remainders of its number (rule R72). -/

section
variable (w : Word)

theorem opField_eq : opField w = w.toNat % 256 := by simp [opField]

theorem rsvField_eq : rsvField w = w.toNat / 2 ^ 56 := by
  have := w.isLt
  simp only [rsvField, BitVec.extractLsb'_toNat, Nat.shiftRight_eq_div_pow]
  omega

theorem posField_eq : posField w = w.toNat / 2 ^ 8 % 256 := by simp [posField, Nat.shiftRight_eq_div_pow]

theorem cntField_eq : cntField w = w.toNat / 2 ^ 16 % 256 := by simp [cntField, Nat.shiftRight_eq_div_pow]

theorem idx0Field_eq : idx0Field w = w.toNat / 2 ^ 24 % 65536 := by simp [idx0Field, Nat.shiftRight_eq_div_pow]

theorem idx1Field_eq : idx1Field w = w.toNat / 2 ^ 40 % 65536 := by simp [idx1Field, Nat.shiftRight_eq_div_pow]

theorem kindField_eq : kindField w = w.toNat / 2 ^ 40 % 16 := by simp [kindField, Nat.shiftRight_eq_div_pow]

end

/-! A packed word. -/

/-- An operand of `k` bits placed at bit `n` loses none of them. -/
theorem toNat_setWidth_shiftLeft {k : Nat} (b : BitVec k) (n : Nat) (h : k + n ≤ 64) :
    (b.setWidth 64 <<< n).toNat = b.toNat <<< n := by
  have fits : b.toNat <<< n < 2 ^ 64 := by
    rw [Nat.shiftLeft_eq]
    calc b.toNat * 2 ^ n < 2 ^ k * 2 ^ n := Nat.mul_lt_mul_of_pos_right b.isLt (Nat.two_pow_pos n)
      _ = 2 ^ (k + n) := (pow_add 2 k n).symm
      _ ≤ 2 ^ 64 := Nat.pow_le_pow_right (by omega) h
  rw [BitVec.toNat_shiftLeft, BitVec.toNat_setWidth_of_le (by omega), Nat.mod_eq_of_lt fits]

theorem lor_shiftLeft_eq_add {n a : Nat} (b : Nat) (h : a < 2 ^ n) : a ||| b <<< n = a + 2 ^ n * b := by
  rw [Nat.lor_comm, ← Nat.shiftLeft_add_eq_or_of_lt h, Nat.shiftLeft_eq, Nat.mul_comm, Nat.add_comm]

/-- The fields of rule R72 do not overlap: the word is the sum of its operands at their places. -/
theorem packCommand_toNat (f : CommandFields) :
    (packCommand f).toNat = f.op % 256 + 2 ^ 8 * (f.pos % 256) + 2 ^ 16 * (f.cnt % 256) + 2 ^ 24 * (f.idx0 % 65536)
      + 2 ^ 40 * (f.idx1 % 65536) := by
  simp only [packCommand, BitVec.toNat_or]
  rw [toNat_setWidth_shiftLeft _ 8 (by omega), toNat_setWidth_shiftLeft _ 16 (by omega),
    toNat_setWidth_shiftLeft _ 24 (by omega), toNat_setWidth_shiftLeft _ 40 (by omega),
    BitVec.toNat_setWidth_of_le (by omega)]
  simp only [BitVec.toNat_ofNat]
  rw [lor_shiftLeft_eq_add (n := 8) _ (by omega), lor_shiftLeft_eq_add (n := 16) _ (by omega),
    lor_shiftLeft_eq_add (n := 24) _ (by omega), lor_shiftLeft_eq_add (n := 40) _ (by omega)]

section
variable (f : CommandFields)

theorem posField_packCommand : posField (packCommand f) = f.pos % 256 := by
  rw [posField_eq, packCommand_toNat]; omega

theorem cntField_packCommand : cntField (packCommand f) = f.cnt % 256 := by
  rw [cntField_eq, packCommand_toNat]; omega

theorem idx0Field_packCommand : idx0Field (packCommand f) = f.idx0 % 65536 := by
  rw [idx0Field_eq, packCommand_toNat]; omega

theorem idx1Field_packCommand : idx1Field (packCommand f) = f.idx1 % 65536 := by
  rw [idx1Field_eq, packCommand_toNat]; omega

theorem kindField_packCommand : kindField (packCommand f) = f.idx1 % 16 := by
  rw [kindField_eq, packCommand_toNat]; omega

end

/-! Decoding an encoded instruction. -/

@[simp] theorem fitsByte_iff (n : Nat) : fitsByte n = true ↔ n < 256 := by simp [fitsByte]

@[simp] theorem fitsIndex_iff (n : Nat) : fitsIndex n = true ↔ n < 65536 := by simp [fitsIndex]

/-- Rule R81: ten codes, 10 and more are none. -/
theorem kindOfCode_eq_none_iff (code : Nat) : kindOfCode code = none ↔ 10 ≤ code := by
  constructor
  · intro none
    by_contra known
    interval_cases code <;> cases none
  · intro high
    obtain ⟨k, rfl⟩ := Nat.exists_eq_add_of_le' high
    rfl

/-- Rule R36: eight registers. -/
theorem csrOfNumber_eq_none_iff (number : Nat) : csrOfNumber number = none ↔ 7 < number := by
  constructor
  · intro none
    by_contra known
    interval_cases number <;> cases none
  · intro high
    obtain ⟨k, rfl⟩ := Nat.exists_eq_add_of_le' high
    rfl

theorem kindOfCode_kindCode (kind : ValueKind) : kindOfCode (kindCode kind) = some kind := by
  cases kind <;> rfl

theorem csrOfNumber_csrNumber (csr : Csr) : csrOfNumber (csrNumber csr) = some csr := by
  cases csr <;> rfl

theorem kindCode_lt (kind : ValueKind) : kindCode kind < 10 := by cases kind <;> decide

theorem csrNumber_lt (csr : Csr) : csrNumber csr < 8 := by cases csr <;> decide

theorem decode_packCommand (f : CommandFields) : decode (packCommand f) = decodeOpcode (packCommand f) :=
  if_pos (rsvField_packCommand f)

/-- Rules R72, R80, R81: each operand is read back from the field it was written to. -/
theorem decode_encode {i : Instr} (h : i.wellFormed = true) : decode (encode i) = .ok i := by
  rw [encode, decode_packCommand]
  cases i with
  | extractWords | wordToBytes | validate | frExtract | frEncode | frValidate | feed | peek | poll | reset | decode
  | encode | seqToBytes | seqValid => rfl
  | bytesToWord offset =>
    have fits : offset < 65536 := by simpa [Instr.wellFormed] using h
    simp [decodeOpcode, fieldsOf, opField_packCommand, idx0Field_packCommand, Nat.mod_eq_of_lt fits]
  | extractNamed key | getField key | getFieldRange key =>
    have fits : key < 65536 := by simpa [Instr.wellFormed] using h
    simp [decodeOpcode, fieldsOf, opField_packCommand, idx1Field_packCommand, Nat.mod_eq_of_lt fits]
  | extractBits p n | extractInt8 p n | extractInt16 p n | extractInt32 p n | extractUint8 p n | extractUint16 p n
  | extractUint32 p n =>
    obtain ⟨hp, hn⟩ : p < 256 ∧ n < 256 := by simpa [Instr.wellFormed] using h
    simp [decodeOpcode, fieldsOf, opField_packCommand, posField_packCommand, cntField_packCommand,
      Nat.mod_eq_of_lt hp, Nat.mod_eq_of_lt hn]
  | extractBool p | extractFloat32 p | extractFloat64 p =>
    have fits : p < 256 := by simpa [Instr.wellFormed] using h
    simp [decodeOpcode, fieldsOf, opField_packCommand, posField_packCommand, Nat.mod_eq_of_lt fits]
  | extractAcross k p n =>
    obtain ⟨⟨hk, hp⟩, hn⟩ : (k < 65536 ∧ p < 256) ∧ n < 256 := by simpa [Instr.wellFormed] using h
    simp [decodeOpcode, fieldsOf, opField_packCommand, posField_packCommand, cntField_packCommand,
      idx0Field_packCommand, Nat.mod_eq_of_lt hk, Nat.mod_eq_of_lt hp, Nat.mod_eq_of_lt hn]
  | extractRange k j p =>
    obtain ⟨⟨hk, hj⟩, hp⟩ : (k < 65536 ∧ j < 65536) ∧ p < 256 := by simpa [Instr.wellFormed] using h
    simp [decodeOpcode, fieldsOf, opField_packCommand, posField_packCommand, idx0Field_packCommand,
      idx1Field_packCommand, Nat.mod_eq_of_lt hk, Nat.mod_eq_of_lt hj, Nat.mod_eq_of_lt hp]
  | extractField k p n kind =>
    obtain ⟨⟨hk, hp⟩, hn⟩ : (k < 65536 ∧ p < 256) ∧ n < 256 := by simpa [Instr.wellFormed] using h
    have code : kindCode kind % 16 = kindCode kind := Nat.mod_eq_of_lt ((kindCode_lt kind).trans (by decide))
    simp [decodeOpcode, fieldsOf, opField_packCommand, posField_packCommand, cntField_packCommand,
      idx0Field_packCommand, kindField_packCommand, code, kindOfCode_kindCode, Nat.mod_eq_of_lt hk,
      Nat.mod_eq_of_lt hp, Nat.mod_eq_of_lt hn]
  | feedByte byte =>
    rw [← decode_packCommand]
    exact decode_encode_feedByte byte
  | rdcsr csr =>
    have number : csrNumber csr % 65536 = csrNumber csr := Nat.mod_eq_of_lt ((csrNumber_lt csr).trans (by decide))
    simp [decodeOpcode, fieldsOf, opField_packCommand, idx0Field_packCommand, number, csrOfNumber_csrNumber]

/-- Settles O1: a packed word is the sum of its operands at their places, and an operand that fits is read back whole. -/
theorem decodeInvertsEncode : Obligations.DecodeInvertsEncode := fun _ => decode_encode

/-- Settles O4, by evaluating the decoder on each word. -/
theorem specWordsDecode : Obligations.SpecWordsDecode := by
  unfold Obligations.SpecWordsDecode
  decide

/-! Which words decode. -/

/-- The last two clauses of rule R82 on the fields: a reserved kind, a register that does not exist. -/
def reservedOperand (w : Word) : Prop :=
  (opField w = 0x3C ∧ 10 ≤ kindField w) ∨ (opField w = 0x60 ∧ 7 < idx0Field w)

theorem illegalWord_iff (w : Word) :
    illegalWord w ↔ (∀ row ∈ opcodeRows, opField w ≠ row.1) ∨ rsvField w ≠ 0 ∨ reservedOperand w := by
  simp only [illegalWord, reservedOperand, opField_eq, rsvField_eq, kindField_eq, idx0Field_eq]

theorem decodeOpcode_extractField {w : Word} (hop : opField w = 0x3C) (known : ¬ 10 ≤ kindField w) :
    ∃ i, decodeOpcode w = .ok i ∧ payloadKindOf i = .words := by
  obtain ⟨kind, hkind⟩ := Option.ne_none_iff_exists'.mp fun none => known ((kindOfCode_eq_none_iff _).mp none)
  simp [decodeOpcode, hop, hkind, payloadKindOf]

theorem decodeOpcode_rdcsr {w : Word} (hop : opField w = 0x60) (known : ¬ 7 < idx0Field w) :
    ∃ i, decodeOpcode w = .ok i ∧ payloadKindOf i = .nothing := by
  obtain ⟨csr, hcsr⟩ := Option.ne_none_iff_exists'.mp fun none => known ((csrOfNumber_eq_none_iff _).mp none)
  simp [decodeOpcode, hop, hcsr, payloadKindOf]

/-- On a row's opcode, an operand that is not reserved gives an operation that takes the row's payload. The row of
EXTRACT_FIELD is the 20th of 33 and that of RDCSR the last; the other rows reserve nothing. -/
theorem decodeOpcode_of_row {w : Word} {row : Nat × PayloadKind × Word} (hrow : row ∈ opcodeRows)
    (hop : opField w = row.1) (hres : ¬ reservedOperand w) :
    ∃ i, decodeOpcode w = .ok i ∧ payloadKindOf i = row.2.1 := by
  obtain ⟨noKind, noCsr⟩ := not_or.mp hres
  fin_cases hrow
  pick_goal 33
  · exact decodeOpcode_rdcsr hop fun high => noCsr ⟨hop, high⟩
  pick_goal 20
  · exact decodeOpcode_extractField hop fun high => noKind ⟨hop, high⟩
  all_goals simp [decodeOpcode, hop, payloadKindOf]

theorem decodeOpcode_ne_ok_of_reservedOperand {w : Word} (h : reservedOperand w) (i : Instr) :
    decodeOpcode w ≠ .ok i := by
  obtain ⟨hop, hcode⟩ | ⟨hop, hnumber⟩ := h
  · simp [decodeOpcode, hop, (kindOfCode_eq_none_iff _).mpr hcode]
  · simp [decodeOpcode, hop, (csrOfNumber_eq_none_iff _).mpr hnumber]

theorem decodeOpcode_ne_ok_of_no_row {w : Word} (h : ∀ row ∈ opcodeRows, opField w ≠ row.1) (i : Instr) :
    decodeOpcode w ≠ .ok i := by
  simp only [opcodeRows, List.forall_mem_cons] at h
  simp [decodeOpcode, h]

theorem decode_ne_ok_of_illegalWord {w : Word} (h : illegalWord w) (i : Instr) : decode w ≠ .ok i := by
  unfold decode
  split
  next hrsv =>
    obtain noRow | rsv | reserved := (illegalWord_iff w).mp h
    · exact decodeOpcode_ne_ok_of_no_row noRow i
    · exact absurd hrsv rsv
    · exact decodeOpcode_ne_ok_of_reservedOperand reserved i
  next => simp

/-- A word that is not illegal decodes to an operation that takes the payload of its opcode's row. -/
theorem decode_of_not_illegalWord {w : Word} {row : Nat × PayloadKind × Word} (h : ¬ illegalWord w)
    (hrow : row ∈ opcodeRows) (hop : opField w = row.1) : ∃ i, decode w = .ok i ∧ payloadKindOf i = row.2.1 := by
  simp only [illegalWord_iff, not_or, not_not] at h
  obtain ⟨-, rsv, legal⟩ := h
  rw [decode, if_pos rsv]
  exact decodeOpcode_of_row hrow hop legal

/-- Settles O2: the decoder goes by the rows of the opcode map, and two of them reserve values of an operand. -/
theorem decodeRejectsExactlyIllegalWords : Obligations.DecodeRejectsExactlyIllegalWords := by
  refine fun w => ⟨fun rejected => ?_, decode_ne_ok_of_illegalWord⟩
  by_contra legal
  obtain ⟨row, hrow, hop⟩ : ∃ row ∈ opcodeRows, opField w = row.1 := by
    by_contra noRow
    exact legal ((illegalWord_iff w).mpr (.inl fun row hrow hop => noRow ⟨row, hrow, hop⟩))
  obtain ⟨i, hi, -⟩ := decode_of_not_illegalWord legal hrow hop
  exact rejected i hi

/-! Which bits of a word the decoder reads (rule R83). -/

/-- Words that agree under a mask agree in every field that the mask covers. -/
theorem extractLsb'_congr_of_mask {w v mask : Word} (agree : w &&& mask = v &&& mask) (start len : Nat)
    (covers : mask.extractLsb' start len = BitVec.allOnes len) :
    w.extractLsb' start len = v.extractLsb' start len := by
  have fields := congrArg (BitVec.extractLsb' start len) agree
  simpa only [BitVec.extractLsb'_and, covers, BitVec.and_allOnes] using fields

/-- The decoder reads `OP` and the operand fields that the mask of the opcode's row covers: in each row's arm stand no
others. -/
theorem decodeOpcode_congr {w v : Word} {row : Nat × PayloadKind × Word} (hrow : row ∈ opcodeRows)
    (hw : opField w = row.1) (hv : opField v = row.1)
    (fields : ∀ start len, row.2.2.extractLsb' start len = BitVec.allOnes len →
      w.extractLsb' start len = v.extractLsb' start len) :
    decodeOpcode w = decodeOpcode v := by
  have pos := fields 8 8
  have cnt (covers : row.2.2.extractLsb' 16 8 = BitVec.allOnes 8) : cntField w = cntField v :=
    congrArg BitVec.toNat (fields 16 8 covers)
  have idx0 (covers : row.2.2.extractLsb' 24 16 = BitVec.allOnes 16) : idx0Field w = idx0Field v :=
    congrArg BitVec.toNat (fields 24 16 covers)
  have idx1 (covers : row.2.2.extractLsb' 40 16 = BitVec.allOnes 16) : idx1Field w = idx1Field v :=
    congrArg BitVec.toNat (fields 40 16 covers)
  have kind (covers : row.2.2.extractLsb' 40 4 = BitVec.allOnes 4) : kindField w = kindField v :=
    congrArg BitVec.toNat (fields 40 4 covers)
  clear fields
  fin_cases hrow
  all_goals simp_all [decodeOpcode, posField]

/-- Settles O3: `OP`, `RSV` and the fields the row reads lie under the mask. -/
theorem unreadFieldsAreIgnored : Obligations.UnreadFieldsAreIgnored := by
  intro w v row hrow hop agree
  have fixed (start len : Nat) (covers : (0xFF000000000000FF : Word).extractLsb' start len = BitVec.allOnes len) :
      w.extractLsb' start len = v.extractLsb' start len :=
    extractLsb'_congr_of_mask agree start len (by rw [BitVec.extractLsb'_or, covers, BitVec.or_allOnes])
  have read (start len : Nat) (covers : row.2.2.extractLsb' start len = BitVec.allOnes len) :
      w.extractLsb' start len = v.extractLsb' start len :=
    extractLsb'_congr_of_mask agree start len (by rw [BitVec.extractLsb'_or, covers, BitVec.allOnes_or])
  have op : opField w = opField v := congrArg BitVec.toNat (fixed 0 8 (by decide))
  have rsv : rsvField w = rsvField v := congrArg BitVec.toNat (fixed 56 8 (by decide))
  have hw : opField w = row.1 := (opField_eq w).trans hop
  have operation : decodeOpcode w = decodeOpcode v := decodeOpcode_congr hrow hw (op ▸ hw) read
  rw [decode, decode, rsv, operation]

/-! What a step does with a command. -/

/-- Rule R70. -/
theorem step_of_decode_ok {s : State} {w : Word} {p : Payload} {rest : List HostEvent} {i : Instr}
    (hin : s.inbox = .command w p :: rest) (hcfg : ¬ malformed s.cfg) (hd : decode w = .ok i) :
    step s = exec i s := by
  simp [step, fetch, hin, (configOk_iff s.cfg).mpr hcfg, hd]

theorem step_of_illegalWord {s : State} {w : Word} {p : Payload} {rest : List HostEvent}
    (hin : s.inbox = .command w p :: rest) (hcfg : ¬ malformed s.cfg) (hw : illegalWord w) :
    step s = .next s.answerIllegal := by
  cases hd : decode w with
  | ok i => exact absurd hd (decode_ne_ok_of_illegalWord hw i)
  | error why => simp [step, fetch, hin, (configOk_iff s.cfg).mpr hcfg, hd]

/-- Settles O5: under a well-formed configuration the word presented is fetched and decoded. -/
theorem stepRunsTheDecodedCommand : Obligations.StepRunsTheDecodedCommand := fun _ _ _ _ _ => step_of_decode_ok

/-- Settles O7: nothing is fetched. -/
theorem nothingPresentedNothingChanges : Obligations.NothingPresentedNothingChanges := by
  intro s hin
  simp [step, fetch, hin]

section
variable {s : State} {p : Payload}

theorem withBytes_of_wrongPayload (hp : presents s p) (wrong : ¬ rightPayload .bytes p) (body : List Byte → Ending) :
    withBytes s body = .next s.answerIllegal := by
  rw [withBytes, payloadOf_of_presents hp]
  split
  · exact absurd ⟨_, rfl⟩ wrong
  · rfl

theorem withWords_of_wrongPayload (hp : presents s p) (wrong : ¬ rightPayload .words p) (body : List Word → Ending) :
    withWords s body = .next s.answerIllegal := by
  rw [withWords, payloadOf_of_presents hp]
  split
  · exact absurd ⟨_, rfl⟩ wrong
  · rfl

theorem withWord_of_wrongPayload (hp : presents s p) (wrong : ¬ rightPayload .word p) (body : Word → Ending) :
    withWord s body = .next s.answerIllegal := by
  rw [withWord, payloadOf_of_presents hp]
  split
  · exact absurd ⟨_, rfl⟩ wrong
  · rfl

theorem withNothing_of_wrongPayload (hp : presents s p) (wrong : ¬ rightPayload .nothing p) (body : Ending) :
    withNothing s body = .next s.answerIllegal := by
  rw [withNothing, payloadOf_of_presents hp]
  split
  · exact absurd rfl wrong
  · rfl

/-- The payload clause of rule R82: every operation answers a payload of another kind with STATUS 7. -/
theorem exec_of_wrongPayload {i : Instr} (hp : presents s p) (wrong : ¬ rightPayload (payloadKindOf i) p) :
    exec i s = .next s.answerIllegal := by
  cases i with
  | extractWords | bytesToWord | validate | frExtract | frEncode | frValidate | feed | decode =>
    exact withBytes_of_wrongPayload hp wrong _
  | wordToBytes | extractBits | extractInt8 | extractInt16 | extractInt32 | extractUint8 | extractUint16
  | extractUint32 | extractBool | extractFloat32 | extractFloat64 => exact withWord_of_wrongPayload hp wrong _
  | extractAcross | extractRange | extractField | extractNamed | encode | seqToBytes | seqValid | getField
  | getFieldRange => exact withWords_of_wrongPayload hp wrong _
  | feedByte | peek | poll | reset | rdcsr => exact withNothing_of_wrongPayload hp wrong _

end

/-- Settles O6: an illegal word is answered before any operation runs, a wrong payload by the operation itself. -/
theorem illegalCommandAnsweredWithStatusSeven : Obligations.IllegalCommandAnsweredWithStatusSeven := by
  intro s w p rest hin hcfg illegal
  rw [← answerIllegal_eq_failed]
  by_cases hw : illegalWord w
  · exact step_of_illegalWord hin hcfg hw
  · obtain ⟨row, hrow, hop, wrong⟩ := illegal.resolve_left hw
    obtain ⟨i, hi, kind⟩ := decode_of_not_illegalWord hw hrow ((opField_eq w).trans hop)
    rw [step_of_decode_ok hin hcfg hi]
    exact exec_of_wrongPayload ⟨w, rest, hin⟩ (kind ▸ wrong)

end Sys2Proof.Machine
end

section
/-! Rules R75, R231, R236: the shape of every response the block sends. -/

namespace Sys2Proof.Machine

open Sys2Proof.Safety

theorem responseOk_ok (v : Result) : responseOk ⟨0, 0, some v⟩ := by simp [responseOk]

theorem responseOk_illegal : responseOk ⟨illegalStatus, 0, none⟩ := by simp [responseOk, illegalStatus]

/-- Rule R236: the sub-cause stands in the two low bits of INFO, above it the symbol's index. -/
theorem infoWord_framing_mod (sub : SubCause) (symbol : Nat) :
    (infoWord (.framing sub symbol)).toNat % 4 = subCauseCode sub := by
  cases sub <;> simp only [infoWord, subCauseCode, BitVec.toNat_ofNat] <;> omega

theorem subCauseCode_ne_zero (sub : SubCause) : subCauseCode sub ≠ 0 := by cases sub <;> decide

theorem responseOk_error (e : OpError) : responseOk ⟨statusCode e, infoWord e, none⟩ := by
  cases e with
  | framing sub symbol =>
    have subCause : (infoWord (.framing sub symbol)).toNat % 4 ≠ 0 :=
      infoWord_framing_mod sub symbol ▸ subCauseCode_ne_zero sub
    exact ⟨by simp [statusCode], by simp [statusCode], fun _ => rfl, fun _ => subCause⟩
  | alignment | bounds | rangeSize | unknownField | insufficientBits => simp [responseOk, statusCode, infoWord]

/-- The response sent last is well formed. -/
def RespondsOk (t : State) : Prop := ∃ r, lastResponse t = some r ∧ responseOk r

theorem respondsOk_respond (s : State) {r : Response} (hr : responseOk r) : RespondsOk (s.respond r) :=
  ⟨r, by simp [lastResponse], hr⟩

theorem respondsOk_answer (s : State) (v : Except OpError Result) : RespondsOk (s.answer v) := by
  cases v with
  | ok v => exact respondsOk_respond s (responseOk_ok v)
  | error e => exact respondsOk_respond s (responseOk_error e)

theorem exec_respondsOk {i : Instr} {s t : State} (h : exec i s = .next t) : RespondsOk t := by
  cases exec_next h with
  | illegal => exact respondsOk_respond s responseOk_illegal
  | answer _ v => exact respondsOk_answer s v
  | fed _ chunk hf =>
    obtain ⟨-, -, ⟨ms, -, rfl⟩ | ⟨ms, e, -, rfl⟩⟩ := feedBytes_next hf
    · rw [← drain_eq_drained]
      exact respondsOk_respond _ (responseOk_ok _)
    · exact respondsOk_respond _ (responseOk_error e)
  | polled | emptied => exact respondsOk_respond _ (responseOk_ok _)
  | pollFailed _ e => exact respondsOk_respond _ (responseOk_error e)

/-- MSG_OUT events and one well-formed response may follow what was sent. -/
theorem responsesOk_of_out {s t : State} {ms : List Message} {sent : Response} (hs : responsesOk s)
    (hout : t.out = s.out ++ ms.map .msgOut ++ [.response sent]) (hsent : responseOk sent) : responsesOk t := by
  intro r hr
  obtain old | rfl : Output.response r ∈ s.out ∨ r = sent := by simpa [hout] using hr
  · exact hs r old
  · exact hsent

/-- An operation sends one response, and that is the one sent last. -/
theorem exec_keeps_responsesOk {i : Instr} {s t : State} (hs : responsesOk s) (h : exec i s = .next t) :
    responsesOk t := by
  obtain ⟨ms, sent, hout, -⟩ := exec_out h
  obtain ⟨last, hlast, lastOk⟩ := exec_respondsOk h
  have only : sent = last := by simpa [lastResponse, hout] using hlast
  exact responsesOk_of_out hs hout (only ▸ lastOk)

/-- Settles O56: a step sends nothing, or the STATUS 7 of an illegal word, or what an operation sends. -/
theorem stepKeepsResponsesWellFormed : Obligations.StepKeepsResponsesWellFormed := by
  intro s t hs h
  obtain ⟨-, rfl⟩ | ⟨c, rest, -, -, rfl⟩ | ⟨w, p, rest, -, -, ⟨why, -, rfl⟩ | ⟨i, -, run⟩⟩ := step_next h
  · exact hs
  · exact hs
  · exact responsesOk_of_out (ms := []) hs (by simp [failed, illegalStatus]) responseOk_illegal
  · exact exec_keeps_responsesOk hs run

end Sys2Proof.Machine
end

section
/-! Rules R101, R104, R105, R106: the word assembler. The folds of assembly and the shifts of disassembly are the sums of
powers and the quotients of rules R52 and R54. -/

namespace Sys2Proof.Machine

open Sys2Proof.Safety

/-! The sums of rule R52. -/

/-- The model's sums over lists in the form that the library's lemmas on sums over ranges speak of. -/
theorem sum_map_range (f : Nat → Nat) (n : Nat) : ((List.range n).map f).sum = ∑ j ∈ Finset.range n, f j := rfl

theorem orderSum_little_cons (b : Byte) (bs : List Byte) :
    orderSum .little (b :: bs) = orderSum .little bs * 256 + b.toNat := by
  have shift (k : Nat) : 2 ^ (8 * (k + 1)) = 2 ^ (8 * k) * 256 := by rw [Nat.mul_succ, Nat.pow_add]
  simp only [orderSum, sum_map_range, List.length_cons, Finset.sum_range_succ', List.getD_cons_succ,
    List.getD_cons_zero, Finset.sum_mul, shift, Nat.mul_assoc, Nat.mul_zero, Nat.pow_zero, Nat.mul_one]

/-- The sum for Big is the sum for Little on the reversed window. -/
theorem orderSum_big (win : List Byte) : orderSum .big win = orderSum .little win.reverse := by
  simp only [orderSum, sum_map_range, List.length_reverse]
  rw [← Finset.sum_range_reflect]
  apply Finset.sum_congr rfl
  intro j hj
  have hj : j < win.length := Finset.mem_range.mp hj
  rw [List.getD_reverse j hj, Nat.sub_sub_self (Nat.le_sub_one_of_lt hj)]

/-- Rule R52: the fold is the sum of powers. -/
theorem toNat_assemble_little (win : List Byte) (h : win.length ≤ 8) :
    (assemble .little win).toNat = orderSum .little win := by
  induction win with
  | nil => rfl
  | cons b bs ih =>
    have hlen : bs.length ≤ 7 := Nat.le_of_succ_le_succ h
    have fits : (assemble .little bs).toNat < 2 ^ 56 :=
      (assemble_little_lt bs (by omega)).trans_le (Nat.pow_le_pow_right (by omega) (by omega))
    rw [assemble_little_cons, toNat_pushByte fits, ih (by omega), orderSum_little_cons]

theorem assemble_eq_orderSum (order : ByteOrder) (win : List Byte) (h : win.length ≤ 8) :
    assemble order win = BitVec.ofNat 64 (orderSum order win) := by
  cases order with
  | little => rw [← toNat_assemble_little win h, BitVec.ofNat_toNat, BitVec.setWidth_eq]
  | big =>
    rw [assemble_big, orderSum_big, ← toNat_assemble_little win.reverse (by simpa using h), BitVec.ofNat_toNat,
      BitVec.setWidth_eq]

/-! The quotients of rule R54. -/

theorem byteOfWord_eq (w : Word) (k : Nat) : byteOfWord w k = BitVec.ofNat 8 (w.toNat / 2 ^ (8 * k)) := by
  apply BitVec.eq_of_toNat_eq
  rw [toNat_byteOfWord, BitVec.toNat_ofNat]

theorem disassemble_eq_orderBytes (order : ByteOrder) (n : Nat) (w : Word) :
    disassemble order n w = (List.range n).map (orderByte order n w) := by
  cases order <;> simp [disassemble, byteOfWord_eq, orderByte]

/-! What the three operations give. -/

theorem byteWidth_le (c : Config) : byteWidth c ≤ 8 := by
  obtain ⟨h, -⟩ | ⟨h, -⟩ | ⟨h, -⟩ := byteWidth_cases c <;> omega

theorem assemble_window (c : Config) (bs : List Byte) (start : Nat) :
    assemble c.order (window start (byteWidth c) bs)
      = BitVec.ofNat 64 (orderSum c.order ((bs.drop start).take (byteWidth c))) :=
  assemble_eq_orderSum c.order _ ((List.length_take_le _ _).trans (byteWidth_le c))

/-- Rule R101. -/
theorem extractWords_eq (c : Config) (bs : List Byte) :
    extractWords c bs = if bs.length % byteWidth c = 0 then .ok (wordsOf c bs) else .error .alignment := by
  simp only [extractWords, aligned, decide_eq_true_eq, assemble_window, wordsOf, piece]

/-- Rule R105. -/
theorem bytesToWord_eq (c : Config) (bs : List Byte) (offset : Nat) :
    bytesToWord c bs offset
      = if bs.length < offset + byteWidth c then .error .bounds
        else .ok (BitVec.ofNat 64 (orderSum c.order ((bs.drop offset).take (byteWidth c)))) := by
  simp only [bytesToWord, gt_iff_lt, assemble_window]

/-- Rule R104. -/
theorem wordToBytes_eq (c : Config) (w : Word) :
    wordToBytes c w = (List.range (byteWidth c)).map (orderByte c.order (byteWidth c) w) :=
  disassemble_eq_orderBytes c.order (byteWidth c) w

theorem validWord_iff (c : Config) (w : Word) : validWord c w = true ↔ w.toNat < 2 ^ wordBits c := decide_eq_true_iff

/-! The operations as `exec` runs them. -/

section
variable {s : State} {bs : List Byte} (h : presents s (.bytes bs))
include h

theorem exec_extractWords_of_presents :
    exec .extractWords s = .next (s.answer ((extractWords s.cfg bs).map .words)) :=
  withBytes_of_presents h _

theorem exec_bytesToWord_of_presents (offset : Nat) :
    exec (.bytesToWord offset) s = .next (s.answer ((bytesToWord s.cfg bs offset).map .scalar)) :=
  withBytes_of_presents h _

end

theorem exec_wordToBytes_of_presents {s : State} {w : Word} (h : presents s (.words [w])) :
    exec .wordToBytes s = if validWord s.cfg w then .next (answered s (.bytes (wordToBytes s.cfg w)))
      else .refused .invalidWord :=
  withWord_of_presents h _

/-- Settles O11: an aligned payload gives the sum of each window, another AlignmentError. -/
theorem extractWordsGivesWindowSums : Obligations.ExtractWordsGivesWindowSums := by
  intro s bs h
  rw [exec_extractWords_of_presents h, extractWords_eq]
  split
  · rfl
  · rfl

/-- Settles O12: a valid Word gives its bytes, another word is refused. -/
theorem wordToBytesGivesTheWordsBytes : Obligations.WordToBytesGivesTheWordsBytes := by
  intro s w h
  rw [exec_wordToBytes_of_presents h, wordToBytes_eq]
  constructor
  · intro valid
    exact if_pos ((validWord_iff _ _).mpr valid)
  · intro high
    exact if_neg fun valid => ((validWord_iff _ _).mp valid).not_ge high

/-- Settles O13: a window within the payload gives its sum, another BoundsError. -/
theorem bytesToWordGivesTheWindowSum : Obligations.BytesToWordGivesTheWindowSum := by
  intro s bs offset h
  rw [exec_bytesToWord_of_presents h, bytesToWord_eq]
  split
  · rfl
  · rfl

/-! Rule R106. -/

theorem bytesToWord_of_le {c : Config} {bs : List Byte} {offset : Nat} (h : offset + byteWidth c ≤ bs.length) :
    bytesToWord c bs offset = .ok (assemble c.order (window offset (byteWidth c) bs)) :=
  if_neg (Nat.not_lt.mpr h)

/-- A window of exactly `B` bytes is read whole. -/
theorem bytesToWord_zero {c : Config} {win : List Byte} (h : win.length = byteWidth c) :
    bytesToWord c win 0 = .ok (assemble c.order win) := by
  rw [bytesToWord_of_le (by omega), window, List.drop_zero, ← h, List.take_length]

/-- Rule R106, first law. -/
theorem bytesToWord_wordToBytes {c : Config} {w : Word} (h : w.toNat < 2 ^ wordBits c) :
    bytesToWord c (wordToBytes c w) 0 = .ok w := by
  rw [wordBits_eq] at h
  rw [wordToBytes, bytesToWord_zero (length_disassemble _ _ w), assemble_disassemble _ _ w h]

/-- Rule R106, second law. -/
theorem wordToBytes_assemble {c : Config} {win : List Byte} (h : win.length = byteWidth c) :
    wordToBytes c (assemble c.order win) = win := by
  rw [wordToBytes, ← h]
  exact disassemble_assemble c.order win (h ▸ byteWidth_le c)

/-- Rule R106, third law: an aligned sequence gives as many words as windows, each the word of its window. -/
theorem extractWords_of_aligned {c : Config} {bs : List Byte} (h : bs.length % byteWidth c = 0) :
    ∃ ws, extractWords c bs = .ok ws ∧ ws.length = bs.length / byteWidth c
      ∧ ∀ i (_ : i < ws.length), bytesToWord c bs (i * byteWidth c) = .ok ws[i] := by
  refine ⟨_, if_pos (decide_eq_true h), by simp, ?_⟩
  intro i hi
  have inside : i + 1 ≤ bs.length / byteWidth c := by simpa using hi
  have fits : i * byteWidth c + byteWidth c ≤ bs.length := by
    rw [← Nat.succ_mul]
    exact Nat.mul_le_of_le_div _ _ _ inside
  rw [bytesToWord_of_le fits]
  simp

/-- Settles O14: the three laws of rule R106. -/
theorem wordAndByteOperationsAgree : Obligations.WordAndByteOperationsAgree := fun _ =>
  ⟨fun _ => bytesToWord_wordToBytes, fun _ h => ⟨_, bytesToWord_zero h, wordToBytes_assemble h⟩,
    fun _ => extractWords_of_aligned⟩

end Sys2Proof.Machine
end

section
/-! Rules R107, R108: VALIDATE and DECODE. Both turn on the same two conditions, the symbols of the framer (rules R121 to
R125) and the alignment of the data bytes. -/

namespace Sys2Proof.Machine

open Sys2Proof.Safety

/-! The symbols of rule R121 as numbers. -/

/-- Two bytes joined by shifting and or-ing are a sum. -/
theorem toNat_or_shiftLeft_bytes (lo hi : Byte) :
    (lo.setWidth 16 ||| hi.setWidth 16 <<< 8).toNat = lo.toNat + 256 * hi.toNat := by
  have hlo : lo.toNat < 2 ^ 8 := lo.isLt
  have hhi : hi.toNat < 2 ^ 8 := hi.isLt
  have shifted : hi.toNat <<< 8 = hi.toNat * 256 := Nat.shiftLeft_eq _ _
  rw [BitVec.toNat_or, BitVec.toNat_shiftLeft, BitVec.toNat_setWidth, BitVec.toNat_setWidth,
    Nat.mod_eq_of_lt (by omega : lo.toNat < 2 ^ 16), Nat.mod_eq_of_lt (by omega : hi.toNat < 2 ^ 16),
    Nat.mod_eq_of_lt (by omega : hi.toNat <<< 8 < 2 ^ 16)]
  exact lor_shiftLeft_eq_add _ hlo

section
variable (order : PairOrder) (b0 b1 : Byte) (rest : List Byte)

theorem toNat_pairValue : (pairValue order b0 b1).toNat = pairAt order (b0 :: b1 :: rest) 0 := by
  cases order with
  | loFirst => exact toNat_or_shiftLeft_bytes b0 b1
  | hiFirst => exact toNat_or_shiftLeft_bytes b1 b0

theorem pairAt_succ (k : Nat) : pairAt order (b0 :: b1 :: rest) (k + 1) = pairAt order rest k := by
  cases order <;> rfl

theorem pairCount_cons : (b0 :: b1 :: rest).length / 2 = rest.length / 2 + 1 := by
  simp only [List.length_cons]
  omega

end

/-- Start bit 0 and stop bit 1, read as bits or as remainders. -/
theorem goodSymbol_toNat_iff (v : BitVec 16) : goodSymbol v.toNat ↔ startBitOf v = false ∧ stopBitOf v = true := by
  simp [goodSymbol, startBitOf, stopBitOf, BitVec.getLsbD, Nat.testBit_eq_decide_div_mod_eq]

theorem symbolData_eq (v : BitVec 16) : symbolData v = BitVec.ofNat 8 (v.toNat / 2) := by
  apply BitVec.eq_of_toNat_eq
  simp [symbolData, Nat.shiftRight_eq_div_pow]

theorem dataOf_cons (order : PairOrder) (b0 b1 : Byte) (rest : List Byte) :
    dataOf order (b0 :: b1 :: rest) = symbolData (pairValue order b0 b1) :: dataOf order rest := by
  rw [symbolData_eq, toNat_pairValue order b0 b1 rest, dataOf, pairCount_cons, List.range_succ_eq_map]
  simp [dataOf, pairAt_succ]

@[simp] theorem length_dataOf (order : PairOrder) (t : List Byte) : (dataOf order t).length = t.length / 2 := by
  simp [dataOf]

/-- Fewer than two bytes hold no symbol. -/
theorem pairCount_of_short {t : List Byte} (short : ∀ b0 b1 rest, t = b0 :: b1 :: rest → False) : t.length / 2 = 0 := by
  match t with
  | [] => rfl
  | [_] => simp
  | b0 :: b1 :: rest => exact (short b0 b1 rest rfl).elim

theorem symbolsGood_iff (order : PairOrder) (t : List Byte) :
    symbolsGood order t = true ↔ ∀ k < t.length / 2, goodSymbol (pairAt order t k) := by
  fun_induction symbolsGood order t with
  | case1 b0 b1 rest ih =>
    have first : (!startBitOf (pairValue order b0 b1) && stopBitOf (pairValue order b0 b1)) = true
        ↔ goodSymbol (pairAt order (b0 :: b1 :: rest) 0) := by
      rw [← toNat_pairValue, goodSymbol_toNat_iff, Bool.and_eq_true, Bool.not_eq_true']
    rw [Bool.and_eq_true, first, ih, pairCount_cons, Nat.forall_lt_succ_left]
    simp only [pairAt_succ]
  | case2 t short => simp [pairCount_of_short short]

/-! What the framer takes (rule R123). -/

theorem extractSymbols_of_symbolsGood {order : PairOrder} {t : List Byte} (h : symbolsGood order t = true) (k : Nat) :
    extractSymbols order k t = .ok (dataOf order t) := by
  fun_induction symbolsGood order t generalizing k with
  | case1 b0 b1 rest ih =>
    simp only [Bool.and_eq_true, Bool.not_eq_true'] at h
    obtain ⟨⟨start, stop⟩, more⟩ := h
    simp [extractSymbols, start, stop, ih more, dataOf_cons]
  | case2 t short => simp [extractSymbols, dataOf, pairCount_of_short short]

theorem extractSymbols_of_not_symbolsGood {order : PairOrder} {t : List Byte} (h : symbolsGood order t = false)
    (k : Nat) : ∃ sub symbol, extractSymbols order k t = .error (.framing sub symbol) := by
  fun_induction symbolsGood order t generalizing k with
  | case1 b0 b1 rest ih =>
    by_cases start : startBitOf (pairValue order b0 b1) = true
    · exact ⟨.startBit, k, by simp [extractSymbols, start]⟩
    · by_cases stop : stopBitOf (pairValue order b0 b1) = true
      · obtain ⟨sub, symbol, later⟩ := ih (by simpa [start, stop] using h) (k + 1)
        exact ⟨sub, symbol, by simp [extractSymbols, start, stop, later]⟩
      · exact ⟨.stopBit, k, by simp [extractSymbols, start, stop]⟩
  | case2 => cases h

theorem framerExtract_of_wellFramed {c : Config} {t : List Byte} (hf : c.framer = .standardMode)
    (h : wellFramed c.pairOrder t) : framerExtract c t = .ok (dataOf c.pairOrder t) := by
  obtain ⟨even, good⟩ := h
  simp [framerExtract, hf, even, extractSymbols_of_symbolsGood ((symbolsGood_iff _ _).mpr good)]

theorem framerExtract_of_not_wellFramed {c : Config} {t : List Byte} (hf : c.framer = .standardMode)
    (h : ¬ wellFramed c.pairOrder t) : ∃ sub symbol, framerExtract c t = .error (.framing sub symbol) := by
  by_cases even : t.length % 2 = 0
  · have bad : symbolsGood c.pairOrder t = false :=
      Bool.eq_false_iff.mpr fun good => h ⟨even, (symbolsGood_iff _ _).mp good⟩
    simpa [framerExtract, hf, even] using extractSymbols_of_not_symbolsGood bad 0
  · exact ⟨.oddLength, t.length / 2, by simp [framerExtract, hf, even]⟩

theorem framerValidate_iff (c : Config) (t : List Byte) :
    framerValidate c t = true ↔ c.framer = .passthrough ∨ wellFramed c.pairOrder t := by
  unfold framerValidate wellFramed
  cases c.framer with
  | passthrough => simp
  | standardMode => by_cases even : t.length % 2 = 0 <;> simp [even, symbolsGood_iff]

/-- The framer gives data bytes, aligned exactly where the transport bytes are valid, or it raises a FramingError. -/
theorem framerExtract_cases (c : Config) (t : List Byte) :
    (∃ data, framerValidate c t = true ∧ framerExtract c t = .ok data
        ∧ (data.length % byteWidth c = 0 ↔ validTransport c t))
      ∨ ∃ sub symbol, framerValidate c t = false ∧ framerExtract c t = .error (.framing sub symbol)
        ∧ ¬ validTransport c t := by
  cases hf : c.framer with
  | passthrough =>
    exact .inl ⟨t, (framerValidate_iff c t).mpr (.inl hf), by simp [framerExtract, hf], by simp [validTransport, hf]⟩
  | standardMode =>
    by_cases good : wellFramed c.pairOrder t
    · exact .inl ⟨_, (framerValidate_iff c t).mpr (.inr good), framerExtract_of_wellFramed hf good,
        by simp [validTransport, hf, good]⟩
    · obtain ⟨sub, symbol, bad⟩ := framerExtract_of_not_wellFramed hf good
      refine .inr ⟨sub, symbol, ?_, bad, by simp [validTransport, hf, good]⟩
      rw [Bool.eq_false_iff, Ne, framerValidate_iff]
      simp [hf, good]

/-! What VALIDATE and DECODE give. -/

/-- Rule R107. -/
theorem validateBytes_iff (c : Config) (t : List Byte) : validateBytes c t = true ↔ validTransport c t := by
  obtain ⟨data, taken, extracted, valid⟩ | ⟨sub, symbol, taken, -, invalid⟩ := framerExtract_cases c t
  · simp [validateBytes, taken, extracted, aligned, valid]
  · simp [validateBytes, taken, invalid]

/-- Rule R211 on valid transport bytes. -/
theorem decodeBytes_of_validTransport {c : Config} {t : List Byte} (h : validTransport c t) :
    ∃ m, decodeBytes c t = .ok m := by
  obtain ⟨data, -, extracted, valid⟩ | ⟨_, _, -, -, invalid⟩ := framerExtract_cases c t
  · exact ⟨wordSeqOf c (wordsOf c data), by simp [decodeBytes, extracted, extractWords_eq, valid.mpr h]⟩
  · exact (invalid h).elim

/-- Rule R211 on other bytes: FramingError or AlignmentError. -/
theorem decodeBytes_of_not_validTransport {c : Config} {t : List Byte} (h : ¬ validTransport c t) :
    (∃ sub symbol, decodeBytes c t = .error (.framing sub symbol)) ∨ decodeBytes c t = .error .alignment := by
  obtain ⟨data, -, extracted, valid⟩ | ⟨sub, symbol, -, extracted, -⟩ := framerExtract_cases c t
  · have unaligned : ¬ data.length % byteWidth c = 0 := fun al => h (valid.mp al)
    exact .inr (by simp [decodeBytes, extracted, extractWords_eq, unaligned])
  · exact .inl ⟨sub, symbol, by simp [decodeBytes, extracted]⟩

/-! The operations as `exec` runs them. -/

theorem withResponse_inj (s : State) (r r' : Response) : withResponse s r = withResponse s r' ↔ r = r' := by
  simp [withResponse]

section
variable {s : State} {t : List Byte} (h : presents s (.bytes t))
include h

theorem exec_validate_of_presents : exec .validate s = .next (answered s (.boolean (validateBytes s.cfg t))) :=
  withBytes_of_presents h _

theorem exec_decode_of_presents :
    exec .decode s = .next (s.answer ((decodeBytes s.cfg t).map fun m => .message m.travel)) :=
  withBytes_of_presents h _

end

/-- Settles O15: VALIDATE answers the test that `validTransport` states. -/
theorem validateTestsFramingThenAlignment : Obligations.ValidateTestsFramingThenAlignment := by
  intro s t h
  exact ⟨_, exec_validate_of_presents h, validateBytes_iff s.cfg t⟩

/-- Settles O16: both operations turn on `validTransport`. -/
theorem validatePredictsDecode : Obligations.ValidatePredictsDecode := by
  intro s t h
  rw [exec_validate_of_presents h, exec_decode_of_presents h]
  by_cases valid : validTransport s.cfg t
  · have accepts : validateBytes s.cfg t = true := (validateBytes_iff _ _).mpr valid
    obtain ⟨m, decoded⟩ := decodeBytes_of_validTransport valid
    simp [accepts, decoded, Except.map, answered, failed, withResponse_inj]
  · have rejects : validateBytes s.cfg t = false := Bool.eq_false_iff.mpr fun b => valid ((validateBytes_iff _ _).mp b)
    obtain ⟨sub, symbol, decoded⟩ | decoded := decodeBytes_of_not_validTransport valid
    · simp [rejects, decoded, Except.map, answered, failed, withResponse_inj, statusCode]
    · simp [rejects, decoded, Except.map, answered, failed, withResponse_inj, statusCode, infoWord]

end Sys2Proof.Machine
end

section
/-! Rules R121 to R129: the protocol framer. Extraction reads one symbol after another, so each fact about it is a fact about
the first symbol of a sequence and an induction over the rest; encoding writes one symbol per data byte and is inverted
symbol by symbol. -/

namespace Sys2Proof.Machine

open Sys2Proof.Safety

/-! What the framer takes, one symbol at a time (rule R123). -/

/-- The sub-cause of a bad symbol: its start bit is looked at before its stop bit (rule R124). -/
def symbolFault (v : Nat) : SubCause := if v % 2 = 1 then .startBit else .stopBit

theorem subCauseCode_symbolFault (v : Nat) : subCauseCode (symbolFault v) = if v % 2 = 1 then 1 else 2 := by
  unfold symbolFault
  split
  · rfl
  · rfl

theorem symbolFault_toNat (v : BitVec 16) : symbolFault v.toNat = if startBitOf v then .startBit else .stopBit := by
  simp [symbolFault, startBitOf, BitVec.getLsbD, Nat.testBit_eq_decide_div_mod_eq]

section
variable {order : PairOrder} {b0 b1 : Byte} (rest : List Byte) (n : Nat)

theorem extractSymbols_cons_of_good (good : goodSymbol (pairValue order b0 b1).toNat) :
    extractSymbols order n (b0 :: b1 :: rest)
      = (extractSymbols order (n + 1) rest).map (symbolData (pairValue order b0 b1) :: ·) := by
  obtain ⟨start, stop⟩ := (goodSymbol_toNat_iff _).mp good
  rw [extractSymbols]
  simp only [start, stop, Bool.false_eq_true, if_false, if_true]
  cases extractSymbols order (n + 1) rest with
  | ok data => rfl
  | error e => rfl

theorem extractSymbols_cons_of_bad (bad : ¬ goodSymbol (pairValue order b0 b1).toNat) :
    extractSymbols order n (b0 :: b1 :: rest)
      = .error (.framing (symbolFault (pairValue order b0 b1).toNat) n) := by
  rw [symbolFault_toNat, extractSymbols]
  cases start : startBitOf (pairValue order b0 b1) with
  | true => rfl
  | false =>
    have stop : stopBitOf (pairValue order b0 b1) = false :=
      Bool.eq_false_iff.mpr fun stop => bad ((goodSymbol_toNat_iff _).mpr ⟨start, stop⟩)
    simp [stop]

end

/-- Rule R124: the first bad symbol is the one reported. -/
theorem extractSymbols_of_first_bad {order : PairOrder} {t : List Byte} {k : Nat} (inside : k < t.length / 2)
    (before : ∀ j < k, goodSymbol (pairAt order t j)) (bad : ¬ goodSymbol (pairAt order t k)) (n : Nat) :
    extractSymbols order n t = .error (.framing (symbolFault (pairAt order t k)) (n + k)) := by
  fun_induction symbolsGood order t generalizing k n with
  | case1 b0 b1 rest ih =>
    cases k with
    | zero =>
      rw [← toNat_pairValue] at bad ⊢
      exact extractSymbols_cons_of_bad rest n bad
    | succ k =>
      have first : goodSymbol (pairValue order b0 b1).toNat :=
        toNat_pairValue order b0 b1 rest ▸ before 0 (Nat.succ_pos k)
      rw [pairCount_cons, Nat.succ_lt_succ_iff] at inside
      have later : ∀ j < k, goodSymbol (pairAt order rest j) := fun j hj =>
        pairAt_succ order b0 b1 rest j ▸ before (j + 1) (Nat.succ_lt_succ hj)
      rw [pairAt_succ] at bad ⊢
      rw [extractSymbols_cons_of_good rest n first, ih inside later bad, Nat.add_right_comm]
      rfl
  | case2 t short => exact absurd inside (by simp [pairCount_of_short short])

section
variable {c : Config} {t : List Byte}

theorem framerExtract_of_passthrough (hf : c.framer = .passthrough) : framerExtract c t = .ok t := by
  simp [framerExtract, hf]

theorem framerExtract_of_odd (hf : c.framer = .standardMode) (odd : t.length % 2 = 1) :
    framerExtract c t = .error (.framing .oddLength (t.length / 2)) := by
  simp [framerExtract, hf, odd]

theorem framerExtract_of_first_bad {k : Nat} (hf : c.framer = .standardMode) (even : t.length % 2 = 0)
    (inside : k < t.length / 2) (before : ∀ j < k, goodSymbol (pairAt c.pairOrder t j))
    (bad : ¬ goodSymbol (pairAt c.pairOrder t k)) :
    framerExtract c t = .error (.framing (symbolFault (pairAt c.pairOrder t k)) k) := by
  simp [framerExtract, hf, even, extractSymbols_of_first_bad inside before bad 0]

end

theorem framerValidate_iff_extracts (c : Config) (t : List Byte) :
    framerValidate c t = true ↔ ∃ data, framerExtract c t = .ok data := by
  obtain ⟨data, valid, extracted, -⟩ | ⟨sub, symbol, invalid, extracted, -⟩ := framerExtract_cases c t
  · simp [valid, extracted]
  · simp [invalid, extracted]

/-! The symbol of a data byte (rules R121, R127). -/

theorem toNat_symbolOf (d : Byte) : (symbolOf d).toNat = 2 * d.toNat + 512 := by
  have hd : d.toNat < 2 ^ 8 := d.isLt
  have hor : d.toNat * 2 ||| 1 <<< 9 = d.toNat * 2 + 2 ^ 9 * 1 := lor_shiftLeft_eq_add 1 (by omega)
  rw [symbolOf, BitVec.toNat_or, BitVec.toNat_shiftLeft, BitVec.toNat_setWidth, Nat.shiftLeft_eq,
    Nat.mod_eq_of_lt (by omega : d.toNat < 2 ^ 16), Nat.mod_eq_of_lt (by omega : d.toNat * 2 ^ 1 < 2 ^ 16)]
  exact hor.trans (by omega)

theorem goodSymbol_symbolOf (d : Byte) : goodSymbol (symbolOf d).toNat := by
  have hd : d.toNat < 2 ^ 8 := d.isLt
  rw [toNat_symbolOf, goodSymbol]
  omega

theorem symbolData_symbolOf (d : Byte) : symbolData (symbolOf d) = d := by
  have hd : d.toNat < 2 ^ 8 := d.isLt
  apply BitVec.eq_of_toNat_eq
  rw [symbolData_eq, toNat_symbolOf, BitVec.toNat_ofNat]
  omega

/-! The two bytes of a symbol (rule R122). -/

theorem lowByte_eq (v : BitVec 16) : v.extractLsb' 0 8 = BitVec.ofNat 8 (v.toNat % 256) := by
  apply BitVec.eq_of_toNat_eq
  simp

theorem highByte_eq (v : BitVec 16) : v.extractLsb' 8 8 = BitVec.ofNat 8 (v.toNat / 256) := by
  apply BitVec.eq_of_toNat_eq
  simp [Nat.shiftRight_eq_div_pow]

/-- The two bytes of a symbol join to it again. -/
theorem lowByte_or_highByte (v : BitVec 16) :
    (v.extractLsb' 0 8).setWidth 16 ||| (v.extractLsb' 8 8).setWidth 16 <<< 8 = v := by
  have hv : v.toNat < 2 ^ 16 := v.isLt
  apply BitVec.eq_of_toNat_eq
  rw [toNat_or_shiftLeft_bytes, lowByte_eq, highByte_eq, BitVec.toNat_ofNat, BitVec.toNat_ofNat]
  omega

theorem encodeSymbol_eq_pair (order : PairOrder) (d : Byte) :
    ∃ b0 b1, encodeSymbol order d = [b0, b1] ∧ pairValue order b0 b1 = symbolOf d := by
  cases order with
  | loFirst => exact ⟨_, _, rfl, lowByte_or_highByte _⟩
  | hiFirst => exact ⟨_, _, rfl, lowByte_or_highByte _⟩

@[simp] theorem length_encodeSymbol (order : PairOrder) (d : Byte) : (encodeSymbol order d).length = 2 := by
  obtain ⟨b0, b1, pair, -⟩ := encodeSymbol_eq_pair order d
  simp [pair]

/-- Rule R127 in closed form. -/
theorem framerEncode_eq_framed (c : Config) (d : List Byte) : framerEncode c d = framed c d := by
  unfold framerEncode framed
  cases c.framer with
  | passthrough => rfl
  | standardMode =>
    refine congrArg (d.flatMap ·) (funext fun b => ?_)
    cases c.pairOrder with
    | loFirst => simp only [encodeSymbol, lowByte_eq, highByte_eq, toNat_symbolOf]
    | hiFirst => simp only [encodeSymbol, lowByte_eq, highByte_eq, toNat_symbolOf]

/-! Rule R128. -/

theorem extractSymbols_encodeSymbol_append (order : PairOrder) (d : Byte) (rest : List Byte) (n : Nat) :
    extractSymbols order n (encodeSymbol order d ++ rest) = (extractSymbols order (n + 1) rest).map (d :: ·) := by
  obtain ⟨b0, b1, pair, value⟩ := encodeSymbol_eq_pair order d
  have good : goodSymbol (pairValue order b0 b1).toNat := value ▸ goodSymbol_symbolOf d
  have data : symbolData (pairValue order b0 b1) = d := value ▸ symbolData_symbolOf d
  rw [pair, List.cons_append, List.singleton_append, extractSymbols_cons_of_good rest n good, data]

theorem extractSymbols_flatMap_encodeSymbol (order : PairOrder) (d : List Byte) (n : Nat) :
    extractSymbols order n (d.flatMap (encodeSymbol order)) = .ok d := by
  induction d generalizing n with
  | nil => rfl
  | cons b d ih =>
    rw [List.flatMap_cons, extractSymbols_encodeSymbol_append, ih]
    rfl

/-- Settles O20: the symbols of the encoding are read back one by one. -/
theorem framingRoundTrips : Obligations.FramingRoundTrips := by
  intro c d
  cases hf : c.framer with
  | passthrough => simp [framerEncode, framerExtract, hf]
  | standardMode =>
    simp [framerEncode, framerExtract, hf, extractSymbols_flatMap_encodeSymbol]

/-! The operations as `exec` runs them. -/

section
variable {s : State} {t : List Byte} (h : presents s (.bytes t))
include h

theorem exec_frEncode_of_presents : exec .frEncode s = .next (answered s (.bytes (framerEncode s.cfg t))) :=
  withBytes_of_presents h _

theorem exec_frValidate_of_presents : exec .frValidate s = .next (answered s (.boolean (framerValidate s.cfg t))) :=
  withBytes_of_presents h _

theorem exec_frExtract_of_presents : exec .frExtract s = .next (s.answer ((framerExtract s.cfg t).map .bytes)) :=
  withBytes_of_presents h _

theorem exec_frExtract_of_ok {data : List Byte} (extracted : framerExtract s.cfg t = .ok data) :
    exec .frExtract s = .next (answered s (.bytes data)) := by
  rw [exec_frExtract_of_presents h, extracted]
  rfl

theorem exec_frExtract_of_framing {sub : SubCause} {symbol : Nat}
    (raised : framerExtract s.cfg t = .error (.framing sub symbol)) :
    exec .frExtract s = .next (failed s 4 (framingInfo (subCauseCode sub) symbol)) := by
  rw [exec_frExtract_of_presents h, raised]
  rfl

/-- FR_EXTRACT answers bytes only where the framer gives them. -/
theorem exec_frExtract_answered_iff (data : List Byte) :
    exec .frExtract s = .next (answered s (.bytes data)) ↔ framerExtract s.cfg t = .ok data := by
  rw [exec_frExtract_of_presents h]
  cases framerExtract s.cfg t with
  | ok data' => simp [Except.map, answered, withResponse_inj]
  | error e => simp [Except.map, answered, failed, withResponse_inj]

end

/-- Settles O17: one clause for each way extraction can end. -/
theorem frameExtractionReportsTheFirstBadSymbol : Obligations.FrameExtractionReportsTheFirstBadSymbol := by
  intro s t h
  refine ⟨?passthrough, ?odd, ?wellFramed, ?firstBad⟩
  case passthrough => exact fun hf => exec_frExtract_of_ok h (framerExtract_of_passthrough hf)
  case odd => exact fun hf odd => exec_frExtract_of_framing h (framerExtract_of_odd hf odd)
  case wellFramed => exact fun hf good => exec_frExtract_of_ok h (framerExtract_of_wellFramed hf good)
  case firstBad =>
    intro k inside hf even before bad
    rw [← subCauseCode_symbolFault]
    exact exec_frExtract_of_framing h (framerExtract_of_first_bad hf even inside before bad)

/-- Settles O18: the symbols are written as `framed` states them. -/
theorem frameEncodingWritesSymbols : Obligations.FrameEncodingWritesSymbols := by
  intro s d h
  rw [exec_frEncode_of_presents h, framerEncode_eq_framed]

/-- Settles O19: the test is of every symbol, and passes exactly where extraction does. -/
theorem frameValidationTestsEverySymbol : Obligations.FrameValidationTestsEverySymbol := by
  intro s t h
  refine ⟨_, exec_frValidate_of_presents h, framerValidate_iff s.cfg t, ?_⟩
  simp only [exec_frExtract_answered_iff h]
  exact framerValidate_iff_extracts s.cfg t

end Sys2Proof.Machine
end

section
/-! Rules R141 to R154: extraction from one word. A field is the quotient and remainder that `bitsOf` states, and what a kind
makes of it is `kindPattern` and nothing else. -/

namespace Sys2Proof.Machine

open Sys2Proof.Safety

/-! Masks (spec/00_scope.md rule R9). -/

theorem toNat_mask {n : Nat} (h : n ≤ 64) : (mask n).toNat = 2 ^ n - 1 := by
  unfold mask
  split
  case isTrue full => subst full; rfl
  case isFalse =>
    have small : 2 ^ n ≤ 2 ^ 64 := Nat.pow_le_pow_right (by omega) h
    rw [BitVec.toNat_ofNat, Nat.mod_eq_of_lt (by omega)]

theorem toNat_and_mask {n : Nat} (v : Word) (h : n ≤ 64) : (v &&& mask n).toNat = v.toNat % 2 ^ n := by
  rw [BitVec.toNat_and, toNat_mask h, Nat.and_two_pow_sub_one_eq_mod]

theorem getLsbD_mask {n : Nat} (h : n ≤ 64) (i : Nat) : (mask n).getLsbD i = decide (i < n) := by
  rw [BitVec.getLsbD, toNat_mask h, Nat.testBit_two_pow_sub_one]

/-! Fields as numbers. -/

theorem bitsOf_lt (v p n : Nat) : bitsOf v p n < 2 ^ n := Nat.mod_lt _ (Nat.two_pow_pos n)

theorem bitsOf_lt_word (v p : Nat) {n : Nat} (h : n ≤ 64) : bitsOf v p n < 2 ^ 64 :=
  (bitsOf_lt v p n).trans_le (Nat.pow_le_pow_right (by omega) h)

@[simp] theorem bitsOf_whole_word (w : Word) : bitsOf w.toNat 0 64 = w.toNat := by
  rw [bitsOf, Nat.pow_zero, Nat.div_one, Nat.mod_eq_of_lt w.isLt]

/-- Rule R141 in closed form. -/
theorem extractBits_eq (w : Word) (p n : Nat) :
    extractBits w p n
      = if 1 ≤ n ∧ p + n ≤ 64 then .ok (BitVec.ofNat 64 (bitsOf w.toNat p n)) else .error .rangeSize := by
  have complement : (n = 0 ∨ p + n > 64) ↔ ¬ (1 ≤ n ∧ p + n ≤ 64) := by omega
  rw [extractBits, if_congr complement rfl rfl, ite_not]
  refine if_ctx_congr Iff.rfl (fun ⟨_, inside⟩ => congrArg Except.ok ?_) fun _ => rfl
  apply BitVec.eq_of_toNat_eq
  rw [toNat_and_mask _ (by omega), BitVec.toNat_ushiftRight, Nat.shiftRight_eq_div_pow, BitVec.toNat_ofNat,
    Nat.mod_eq_of_lt (bitsOf_lt_word _ _ (by omega)), bitsOf]

theorem extractBits_of_le {w : Word} {p n : Nat} (hn : 1 ≤ n) (inside : p + n ≤ 64) :
    extractBits w p n = .ok (BitVec.ofNat 64 (bitsOf w.toNat p n)) := by
  rw [extractBits_eq, if_pos ⟨hn, inside⟩]

/-! What a kind makes of a field (rules R143, R168). -/

theorem kindWidth_le (kind : ValueKind) : kindWidth kind ≤ 64 := by cases kind <;> decide

theorem zeroFill_eq {T raw : Nat} (hT : T ≤ 64) (h : raw < 2 ^ T) :
    zeroFill T (BitVec.ofNat 64 raw) = BitVec.ofNat 64 raw := by
  have fits : raw < 2 ^ 64 := h.trans_le (Nat.pow_le_pow_right (by omega) hT)
  apply BitVec.eq_of_toNat_eq
  rw [zeroFill, toNat_and_mask _ hT, BitVec.toNat_ofNat, Nat.mod_eq_of_lt fits, Nat.mod_eq_of_lt h]

theorem getLsbD_signedPattern {T n raw i : Nat} (hn : 1 ≤ n) (hi : i < 64) :
    (signedPattern T n raw).getLsbD i
      = (decide (i < T) && if i < n then raw.testBit i else raw.testBit (n - 1)) := by
  have top : n - 1 < n := by omega
  simp only [signedPattern, BitVec.getLsbD_setWidth, BitVec.getLsbD_signExtend, BitVec.msb_eq_getLsbD_last,
    BitVec.getLsbD_ofNat, hi, top, decide_true, Bool.true_and]
  split
  case isTrue low => simp [low]
  case isFalse => rfl

/-- Or-ing ones above a field whose top bit is set and cutting to `T` bits is sign extension, bit by bit. -/
theorem signFill_eq {T n raw : Nat} (hn : 1 ≤ n) (hnT : n ≤ T) (hT : T ≤ 64) (h : raw < 2 ^ n) :
    signFill T (BitVec.ofNat 64 raw) n = signedPattern T n raw := by
  have above (i : Nat) (hi : ¬ i < n) : raw.testBit i = false :=
    Nat.testBit_lt_two_pow (h.trans_le (Nat.pow_le_pow_right (by omega) (Nat.not_lt.mp hi)))
  have top : bitAt (BitVec.ofNat 64 raw) (n - 1) = raw.testBit (n - 1) := by
    rw [bitAt, BitVec.getLsbD_ofNat, decide_eq_true (by omega), Bool.true_and]
  apply BitVec.eq_of_getLsbD_eq
  intro i hi
  rw [getLsbD_signedPattern hn hi, signFill, top, apply_ite (BitVec.getLsbD · i)]
  simp only [BitVec.getLsbD_and, BitVec.getLsbD_or, BitVec.getLsbD_not, BitVec.getLsbD_ofNat, getLsbD_mask hT,
    getLsbD_mask (hnT.trans hT), hi, decide_true, Bool.true_and]
  by_cases low : i < n
  · simp [low, Bool.and_comm]
  · simp [low, above, Bool.and_comm]

theorem signedOf_setWidth {T : Nat} (pos : 0 < T) (hT : T ≤ 64) (x : BitVec T) : signedOf T (x.setWidth 64) = x.toInt := by
  have top : bitAt (x.setWidth 64) (T - 1) = x.msb := by
    rw [bitAt, BitVec.getLsbD_setWidth, BitVec.msb_eq_getLsbD_last, decide_eq_true (by omega), Bool.true_and]
  rw [signedOf, top, BitVec.toNat_setWidth_of_le hT, BitVec.toInt_eq_msb_cond, Nat.cast_pow, Nat.cast_ofNat]

theorem toNat_signedPattern_lt {T : Nat} (hT : T ≤ 64) (n raw : Nat) : (signedPattern T n raw).toNat < 2 ^ T := by
  rw [signedPattern, BitVec.toNat_setWidth_of_le hT]
  exact BitVec.isLt _

/-- Rule R150: read in two's complement at width `T`, the pattern is the field read at width `n`. -/
theorem signedOf_signedPattern {T n raw : Nat} (hn : 1 ≤ n) (hnT : n ≤ T) (hT : T ≤ 64) (h : raw < 2 ^ n) :
    signedOf T (signedPattern T n raw) = if 2 ^ (n - 1) ≤ raw then (raw : Int) - 2 ^ n else raw := by
  rw [signedPattern, signedOf_setWidth (by omega) hT, BitVec.toInt_signExtend_of_le hnT, BitVec.toInt_eq_msb_cond,
    BitVec.msb_eq_decide, BitVec.toNat_ofNat, Nat.mod_eq_of_lt h]
  simp

/-- The conversion of an `n`-bit field is its pattern under its kind. -/
theorem convert_eq {kind : ValueKind} {n raw : Nat} (hn : 1 ≤ n) (hk : n ≤ kindWidth kind) (h : raw < 2 ^ n) :
    convert kind (BitVec.ofNat 64 raw) n = ⟨kind, kindPattern kind n raw⟩ := by
  have fits : raw < 2 ^ kindWidth kind := h.trans_le (Nat.pow_le_pow_right (by omega) hk)
  cases kind with
  | int8 | int16 | int32 => exact congrArg (TypedValue.mk _) (signFill_eq hn hk (by decide) h)
  | uint8 | uint16 | uint32 => exact congrArg (TypedValue.mk _) (zeroFill_eq (by decide) fits)
  | bool | float32 | float64 | rawBits => rfl

section
variable {kind : ValueKind}

theorem kindPattern_of_signed (signed : kind ∈ [.int8, .int16, .int32]) (n raw : Nat) :
    kindPattern kind n raw = signedPattern (kindWidth kind) n raw := by
  fin_cases signed <;> rfl

theorem denotes_of_signed (signed : kind ∈ [.int8, .int16, .int32]) (bits : Word) :
    (TypedValue.mk kind bits).denotes = .integer (signedOf (kindWidth kind) bits) := by
  fin_cases signed <;> rfl

theorem kindPattern_of_unsigned (unsigned : kind ∈ [.uint8, .uint16, .uint32]) (n raw : Nat) :
    kindPattern kind n raw = BitVec.ofNat 64 raw := by
  fin_cases unsigned <;> rfl

theorem denotes_of_unsigned (unsigned : kind ∈ [.uint8, .uint16, .uint32]) (bits : Word) :
    (TypedValue.mk kind bits).denotes = .integer bits.toNat := by
  fin_cases unsigned <;> rfl

end

/-- Rule R143 in closed form. -/
theorem typedInt_eq (kind : ValueKind) (w : Word) (p n : Nat) :
    typedInt kind w p n
      = if 1 ≤ n ∧ n ≤ kindWidth kind ∧ p + n ≤ 64 then .ok ⟨kind, kindPattern kind n (bitsOf w.toNat p n)⟩
        else .error .rangeSize := by
  rw [typedInt, extractBits_eq]
  by_cases wide : n > kindWidth kind
  · rw [if_pos wide, if_neg (by omega)]
  rw [if_neg wide]
  by_cases inside : 1 ≤ n ∧ p + n ≤ 64
  · obtain ⟨hn, hp⟩ := inside
    have hk : n ≤ kindWidth kind := Nat.not_lt.mp wide
    rw [if_pos ⟨hn, hp⟩, if_pos ⟨hn, hk, hp⟩, ← convert_eq hn hk (bitsOf_lt _ _ _)]
  · rw [if_neg inside, if_neg fun ⟨hn, _, hp⟩ => inside ⟨hn, hp⟩]

/-! The operations as `exec` runs them. -/

/-- A check before a pure operation's result is a check before its response. -/
theorem answer_map_ite {α : Type} (s : State) (f : α → Result) (c : Prop) [Decidable c] (a b : Except OpError α) :
    s.answer ((if c then a else b).map f) = if c then s.answer (a.map f) else s.answer (b.map f) :=
  apply_ite (fun r => s.answer (r.map f)) c a b

theorem answerTyped_typedInt (s : State) (kind : ValueKind) (w : Word) (p n : Nat) :
    answerTyped s (typedInt kind w p n) = .next (oneWordOutcome s kind (kindWidth kind) w p n) := by
  rw [typedInt_eq, answerTyped, answer_map_ite]
  rfl

section
variable {s : State} {w : Word} (h : presents s (.words [w]))
include h

theorem exec_extractBits_of_presents (p n : Nat) :
    exec (.extractBits p n) s = .next (s.answer ((extractBits w p n).map .scalar)) :=
  withWord_of_presents h _

theorem exec_extractBool_of_presents (p : Nat) :
    exec (.extractBool p) s = .next (s.answer ((extractBits w p 1).map fun raw => .boolean (raw == 1))) :=
  withWord_of_presents h _

theorem exec_extractFloat32_of_presents (p : Nat) :
    exec (.extractFloat32 p) s = .next (s.answer ((extractBits w p 32).map .scalar)) := by
  refine (withWord_of_presents h _).trans ?_
  cases extractBits w p 32 with
  | ok raw => rfl
  | error e => rfl

theorem exec_extractFloat64_of_presents (p : Nat) :
    exec (.extractFloat64 p) s = .next (s.answer ((extractBits w p 64).map .scalar)) := by
  refine (withWord_of_presents h _).trans ?_
  cases extractBits w p 64 with
  | ok raw => rfl
  | error e => rfl

end

/-- Settles O21: the field where it lies within the container, whatever CFG.W is. -/
theorem extractBitsGivesTheField : Obligations.ExtractBitsGivesTheField := by
  intro s w p n h
  have limit : (1 ≤ n ∧ p + n ≤ 64) ↔ (1 ≤ n ∧ n ≤ 64 ∧ p + n ≤ 64) := by omega
  rw [exec_extractBits_of_presents h, extractBits_eq, if_congr limit rfl rfl, answer_map_ite]
  rfl

/-- Settles O22: the three signed extractors are `typedInt` at their kinds. -/
theorem signedExtractorsSignExtend : Obligations.SignedExtractorsSignExtend := fun _ _ _ _ h =>
  ⟨(withWord_of_presents h _).trans (answerTyped_typedInt ..), (withWord_of_presents h _).trans (answerTyped_typedInt ..),
    (withWord_of_presents h _).trans (answerTyped_typedInt ..)⟩

/-- Settles O23: the three unsigned extractors are `typedInt` at their kinds. -/
theorem unsignedExtractorsZeroExtend : Obligations.UnsignedExtractorsZeroExtend := fun _ _ _ _ h =>
  ⟨(withWord_of_presents h _).trans (answerTyped_typedInt ..), (withWord_of_presents h _).trans (answerTyped_typedInt ..),
    (withWord_of_presents h _).trans (answerTyped_typedInt ..)⟩

/-- Settles O24: a value that `typedInt` gives is the pattern of its kind, which denotes the field read at width `n`. -/
theorem typedIntegersDenoteTheField : Obligations.TypedIntegersDenoteTheField := by
  intro kind w p n v h
  rw [typedInt_eq] at h
  split at h
  case isFalse => cases h
  case isTrue inside =>
    obtain ⟨hn, hk, -⟩ := inside
    have field := bitsOf_lt w.toNat p n
    have fits : bitsOf w.toNat p n < 2 ^ kindWidth kind := field.trans_le (Nat.pow_le_pow_right (by omega) hk)
    have whole : (BitVec.ofNat 64 (bitsOf w.toNat p n)).toNat = bitsOf w.toNat p n :=
      Nat.mod_eq_of_lt (bitsOf_lt_word _ _ (hk.trans (kindWidth_le kind)))
    injection h with h
    subst h
    refine ⟨fun signed => ?_, fun unsigned => ?_⟩
    · rw [denotes_of_signed signed, kindPattern_of_signed signed,
        signedOf_signedPattern hn hk (kindWidth_le kind) field]
      exact ⟨toNat_signedPattern_lt (kindWidth_le kind) _ _, rfl⟩
    · rw [denotes_of_unsigned unsigned, kindPattern_of_unsigned unsigned, whole]
      exact ⟨fits, rfl⟩

/-- Settles O25: the field of one bit is 1 where the bit is set. -/
theorem extractBoolTestsOneBit : Obligations.ExtractBoolTestsOneBit := by
  intro s w p h
  have limit : (1 ≤ 1 ∧ p + 1 ≤ 64) ↔ p ≤ 63 := by omega
  have test : (BitVec.ofNat 64 (bitsOf w.toNat p 1) == 1) = decide (bitsOf w.toNat p 1 = 1) := by
    rw [beq_eq_decide, decide_eq_decide, ← BitVec.toNat_inj, BitVec.toNat_ofNat,
      Nat.mod_eq_of_lt (bitsOf_lt_word _ _ (by omega))]
    rfl
  rw [exec_extractBool_of_presents h, extractBits_eq, if_congr limit rfl rfl, ← test, answer_map_ite]
  rfl

/-- Settles O26: the patterns are fields of 32 and 64 bits. -/
theorem floatExtractorsKeepThePattern : Obligations.FloatExtractorsKeepThePattern := by
  intro s w p h
  have limit32 : (1 ≤ 32 ∧ p + 32 ≤ 64) ↔ p ≤ 32 := by omega
  have limit64 : (1 ≤ 64 ∧ p + 64 ≤ 64) ↔ p = 0 := by omega
  rw [exec_extractFloat32_of_presents h, exec_extractFloat64_of_presents h, extractBits_eq, extractBits_eq,
    if_congr limit32 rfl rfl, if_congr limit64 rfl rfl, answer_map_ite, answer_map_ite]
  refine ⟨rfl, congrArg _ (if_ctx_congr Iff.rfl (fun start => ?_) fun _ => rfl)⟩
  rw [start, bitsOf_whole_word, BitVec.ofNat_toNat, BitVec.setWidth_eq]
  rfl

end Sys2Proof.Machine
end

section
/-! Rules R160 to R171: fields that span words. The walk of rule R162 takes from each word the piece of the field that lies in
it; `bitsOf_joined_cons_low` and `bitsOf_joined_cons_across` say which bits of the joined words that piece is, and
EXTRACT_RANGE, EXTRACT_FIELD and EXTRACT_NAMED rest on the closed form of the walk. -/

namespace Sys2Proof.Machine

open Sys2Proof.Safety

/-! The word width (rules R160, R161). -/

/-- Rule R161: bits needed, rounded up, compared as numbers. -/
theorem detectWidth_eq (v : Word) :
    detectWidth v
      = if v = 0 then 16 else if v.toNat < 2 ^ 8 then 8 else if v.toNat < 2 ^ 16 then 16
        else if v.toNat < 2 ^ 32 then 32 else 64 := by
  unfold detectWidth
  split
  · rfl
  case isFalse nonzero =>
    have number : v.toNat ≠ 0 := fun zero => nonzero (BitVec.eq_of_toNat_eq zero)
    simp only [Nat.succ_le_iff, Nat.log2_lt number]

theorem wordBits_le (c : Config) : wordBits c ≤ 64 := by
  obtain ⟨-, h⟩ | ⟨-, h⟩ | ⟨-, h⟩ := byteWidth_cases c <;> omega

theorem detectWidth_le (v : Word) : detectWidth v ≤ 64 := by
  rw [detectWidth_eq]
  split_ifs <;> omega

theorem wordWidth_le (c : Config) (v : Word) : wordWidth c v ≤ 64 := by
  unfold wordWidth
  split
  · exact wordBits_le c
  · exact detectWidth_le v

/-- Settles O27: the configured width, or the detected one. -/
theorem wordWidthIsConfiguredOrDetected : Obligations.WordWidthIsConfiguredOrDetected := by
  intro c v
  constructor
  · intro configured
    simp [wordWidth, configured]
  · intro heuristic
    rw [← detectWidth_eq, wordWidth, heuristic]

/-! Fields of joined words (rules R163, R164). -/

@[simp] theorem bitsOf_zero (v p : Nat) : bitsOf v p 0 = 0 := Nat.mod_one _

/-- A field cut in two: the low `m` bits, and above them the rest. -/
theorem bitsOf_add (v p m k : Nat) : bitsOf v p (m + k) = bitsOf v p m + 2 ^ m * bitsOf v (p + m) k := by
  rw [bitsOf, Nat.pow_add, Nat.mod_mul, Nat.div_div_eq_div_mul, ← Nat.pow_add, bitsOf, bitsOf]

/-- A field below bit `width` does not see the bits from there on. -/
theorem bitsOf_mod {v width p n : Nat} (inside : p + n ≤ width) : bitsOf (v % 2 ^ width) p n = bitsOf v p n := by
  have low (u : Nat) : bitsOf u p n = u % 2 ^ (p + n) / 2 ^ p := by
    rw [Nat.pow_add, Nat.mod_mul_right_div_self, bitsOf]
  rw [low, low, Nat.mod_mod_of_dvd _ (Nat.pow_dvd_pow 2 inside)]

theorem joined_cons (width : Nat) (w : Word) (rest : List Word) :
    joined width (w :: rest) = w.toNat % 2 ^ width + 2 ^ width * joined width rest := by
  have shift (k : Nat) : 2 ^ (width * (k + 1)) = 2 ^ width * 2 ^ (width * k) := by
    rw [Nat.mul_succ, Nat.add_comm, Nat.pow_add]
  simp only [joined, sum_map_range, List.length_cons, Finset.sum_range_succ', List.getD_cons_succ, List.getD_cons_zero,
    Finset.mul_sum, shift, Nat.mul_left_comm, Nat.mul_zero, Nat.pow_zero, Nat.mul_one]
  exact Nat.add_comm _ _

/-- A field within the first word is a field of that word. -/
theorem bitsOf_joined_cons_low {width p n : Nat} (w : Word) (rest : List Word) (inside : p + n ≤ width) :
    bitsOf (joined width (w :: rest)) p n = bitsOf w.toNat p n := by
  rw [← bitsOf_mod inside, joined_cons, Nat.add_mul_mod_self_left, Nat.mod_mod, bitsOf_mod inside]

/-- A field from the second word on is a field of the words behind the first. -/
theorem bitsOf_joined_cons_high (width n : Nat) (w : Word) (rest : List Word) :
    bitsOf (joined width (w :: rest)) width n = bitsOf (joined width rest) 0 n := by
  rw [bitsOf, joined_cons, Nat.add_mul_div_left _ _ (Nat.two_pow_pos _),
    Nat.div_eq_of_lt (Nat.mod_lt _ (Nat.two_pow_pos _)), Nat.zero_add, bitsOf, Nat.pow_zero, Nat.div_one]

/-- A field that runs past the first word is the rest of that word and, above it, the low bits of the words behind. -/
theorem bitsOf_joined_cons_across {width p : Nat} (w : Word) (rest : List Word) (inside : p ≤ width) (k : Nat) :
    bitsOf (joined width (w :: rest)) p (width - p + k)
      = bitsOf w.toNat p (width - p) + 2 ^ (width - p) * bitsOf (joined width rest) 0 k := by
  have fits : p + (width - p) = width := Nat.add_sub_cancel' inside
  rw [bitsOf_add, bitsOf_joined_cons_low w rest fits.le, fits, bitsOf_joined_cons_high]

/-! The walk (rule R162). -/

theorem add_two_pow_mul_lt {a b g k : Nat} (ha : a < 2 ^ g) (hb : b < 2 ^ k) : a + 2 ^ g * b < 2 ^ (g + k) :=
  calc a + 2 ^ g * b < 2 ^ g + 2 ^ g * b := Nat.add_lt_add_right ha _
    _ = 2 ^ g * (b + 1) := by rw [Nat.mul_succ, Nat.add_comm]
    _ ≤ 2 ^ g * 2 ^ k := Nat.mul_le_mul_left _ hb
    _ = 2 ^ (g + k) := (pow_add 2 g k).symm

/-- A chunk placed above the `g` bits gathered so far. -/
theorem toNat_or_chunk {result : Word} {g chunk k : Nat} (low : result.toNat < 2 ^ g) (h : chunk < 2 ^ k)
    (fits : g + k ≤ 64) :
    (result ||| BitVec.ofNat 64 chunk <<< g).toNat = result.toNat + 2 ^ g * chunk := by
  have whole : BitVec.ofNat 64 chunk = (BitVec.ofNat k chunk).setWidth 64 := by
    apply BitVec.eq_of_toNat_eq
    rw [BitVec.toNat_setWidth_of_le (by omega), BitVec.toNat_ofNat, BitVec.toNat_ofNat, Nat.mod_eq_of_lt h,
      Nat.mod_eq_of_lt (h.trans_le (Nat.pow_le_pow_right (by omega) (by omega)))]
  rw [BitVec.toNat_or, whole, toNat_setWidth_shiftLeft _ _ (by omega), BitVec.toNat_ofNat, Nat.mod_eq_of_lt h,
    lor_shiftLeft_eq_add _ low]

/-- The walk ends where all bits are gathered. -/
theorem walkWords_gathered (n width : Nat) (ws : List Word) (cur : Nat) (result : Word) :
    walkWords n width ws n cur result = .ok result := by
  cases ws <;> simp [walkWords]

/-- One turn of the walk, at a word with bits left. -/
theorem walkWords_cons {n width g cur : Nat} (w : Word) (rest : List Word) (result : Word) (more : g < n)
    (inside : cur < width) (hw : width ≤ 64) :
    walkWords n width (w :: rest) g cur result
      = walkWords n width rest (g + min (n - g) (width - cur)) 0
        (result ||| BitVec.ofNat 64 (bitsOf w.toNat cur (min (n - g) (width - cur))) <<< g) := by
  rw [walkWords, if_pos more]
  simp only [extractBits_of_le (w := w) (p := cur) (n := min (n - g) (width - cur)) (by omega) (by omega)]

/-- The walk in closed form: the bits still wanted, placed above those gathered, or InsufficientBitsError where the words
left hold too few. -/
theorem walkWords_eq {n width : Nat} (hn : n ≤ 64) (hw : width ≤ 64) {ws : List Word} {g cur : Nat} {result : Word}
    (more : g < n) (inside : cur < width) (low : result.toNat < 2 ^ g) :
    walkWords n width ws g cur result
      = if ws.length * width < cur + (n - g) then .error .insufficientBits
        else .ok (BitVec.ofNat 64 (result.toNat + 2 ^ g * bitsOf (joined width ws) cur (n - g))) := by
  induction ws generalizing g cur result with
  | nil =>
    have short : ([] : List Word).length * width < cur + (n - g) := by rw [List.length_nil]; omega
    rw [if_pos short, walkWords, if_pos more]
  | cons w rest ih =>
    have chunk (k : Nat) (hk : g + k ≤ 64) := toNat_or_chunk low (bitsOf_lt w.toNat cur k) hk
    rw [walkWords_cons w rest result more inside hw, List.length_cons, Nat.succ_mul]
    by_cases last : n - g ≤ width - cur
    · -- the field ends in this word
      have enough : ¬ rest.length * width + width < cur + (n - g) := by omega
      rw [min_eq_left last, Nat.add_sub_cancel' more.le, walkWords_gathered, if_neg enough,
        bitsOf_joined_cons_low w rest (by omega), ← chunk _ (by omega), BitVec.ofNat_toNat, BitVec.setWidth_eq]
    · -- it goes on in the next one
      obtain ⟨k, left⟩ : ∃ k, n - g = (width - cur) + k := Nat.exists_eq_add_of_le (Nat.le_of_not_le last)
      have later : n - (g + (width - cur)) = k := by omega
      have gathered : (result ||| BitVec.ofNat 64 (bitsOf w.toNat cur (width - cur)) <<< g).toNat
          < 2 ^ (g + (width - cur)) := by
        rw [chunk _ (by omega)]
        exact add_two_pow_mul_lt low (bitsOf_lt _ _ _)
      have short : (rest.length * width < 0 + k) ↔ rest.length * width + width < cur + (width - cur + k) := by omega
      rw [min_eq_right (Nat.le_of_not_le last), ih (by omega) (by omega) gathered, later, left, if_congr short rfl rfl,
        bitsOf_joined_cons_across w rest inside.le, chunk _ (by omega), Nat.pow_add, Nat.mul_add, Nat.mul_assoc, Nat.add_assoc]

theorem drop_eq_getD_cons {ws : List Word} {i : Nat} (h : i < ws.length) :
    ws.drop i = ws.getD i 0 :: ws.drop (i + 1) := by
  rw [List.drop_eq_getElem_cons h, List.getD_eq_getElem _ _ h]

/-- Rule R162 in closed form, for a width that is one of a word's. -/
theorem extractAcross_eq (ws : List Word) (i p n : Nat) {widthOf : Word → Nat} {width : Nat}
    (first : widthOf (ws.getD i 0) = width) (hw : width ≤ 64) :
    extractAcross ws i p n widthOf
      = if n = 0 ∨ 64 < n then .error .rangeSize
        else if ws.length ≤ i then .error .bounds
        else if width ≤ p then .error .rangeSize
        else if (ws.length - i) * width < p + n then .error .insufficientBits
        else .ok (BitVec.ofNat 64 (bitsOf (joined width (ws.drop i)) p n)) := by
  unfold extractAcross
  refine if_ctx_congr Iff.rfl (fun _ => rfl) fun count => ?_
  by_cases outside : ws.length ≤ i
  · rw [if_pos outside, List.drop_eq_nil_of_le outside]
  · rw [if_neg outside, drop_eq_getD_cons (by omega)]
    simp only [first, ← drop_eq_getD_cons (Nat.lt_of_not_le outside)]
    refine if_ctx_congr Iff.rfl (fun _ => rfl) fun start => ?_
    rw [walkWords_eq (by omega) hw (by omega) (by omega) (by simp), List.length_drop]
    simp

/-! The range and the typed field (rules R166, R169, R171). -/

/-- Rule R166 in closed form. Where the total is in range no word is missing, so InsufficientBitsError is out. -/
theorem extractRange_eq (c : Config) (ws : List Word) (first last p : Nat) {width : Nat}
    (hwidth : wordWidth c (ws.getD first 0) = width) :
    extractRange c ws first last p
      = if last < first ∨ ws.length ≤ last then .error .bounds
        else if (last + 1 - first) * width ≤ p ∨ p + 64 < (last + 1 - first) * width ∨ width ≤ p then .error .rangeSize
        else .ok (BitVec.ofNat 64 (bitsOf (joined width (ws.drop first)) p ((last + 1 - first) * width - p))) := by
  have hw : width ≤ 64 := hwidth ▸ wordWidth_le _ _
  unfold extractRange
  by_cases empty : last < first
  · rw [if_pos empty, if_pos (.inl empty)]
  by_cases outside : ws.length ≤ last
  · rw [if_neg empty, if_pos outside, if_pos (.inr outside)]
  have total : ((last : Int) - first + 1) * width - p = ((last + 1 - first) * width : Nat) - (p : Int) := by
    push_cast [show first ≤ last + 1 by omega]
    ring
  have within : (last + 1 - first) * width ≤ (ws.length - first) * width := Nat.mul_le_mul_right _ (by omega)
  rw [if_neg empty, if_neg outside, if_neg (by omega), drop_eq_getD_cons (by omega)]
  simp only [hwidth, total, ← drop_eq_getD_cons (show first < ws.length by omega)]
  generalize (last + 1 - first) * width = size at within ⊢
  by_cases range : (size : Int) - p ≤ 0 ∨ (size : Int) - p > 64
  · rw [if_pos range, if_pos (by omega)]
  · have count : ((size : Int) - p).toNat = size - p := by omega
    rw [if_neg range, count, extractAcross_eq ws first p _ rfl hw, if_neg (by omega), if_neg (by omega)]
    by_cases start : width ≤ p
    · rw [if_pos start, if_pos (by omega)]
    · rw [if_neg start, if_neg (by omega), if_neg (by omega)]

theorem contractHolds_eq (kind : ValueKind) (n : Nat) : contractHolds kind n = countAllowed kind n := by
  cases kind <;> simp [contractHolds, countAllowed, Nat.one_le_iff_ne_zero]

theorem countAllowed_le {kind : ValueKind} {n : Nat} (h : countAllowed kind n = true) : 1 ≤ n ∧ n ≤ 64 := by
  cases kind <;> simp only [countAllowed, decide_eq_true_eq] at h <;> omega

/-- A count that a kind allows converts as `kindPattern` states. -/
theorem convert_of_countAllowed {kind : ValueKind} {n raw : Nat} (h : countAllowed kind n = true) (field : raw < 2 ^ n) :
    convert kind (BitVec.ofNat 64 raw) n = ⟨kind, kindPattern kind n raw⟩ := by
  refine convert_eq (countAllowed_le h).1 ?_ field
  cases kind <;> simp only [countAllowed, decide_eq_true_eq, kindWidth] at h ⊢ <;> omega

/-- Step 4 of rule R169: within one word or across several, the field is that of the joined words. -/
theorem fetchField_eq {c : Config} {ws : List Word} {f : BitFieldSpec} (count : 1 ≤ f.bitCount ∧ f.bitCount ≤ 64)
    (inside : f.wordIndex < ws.length) (start : f.startBit < wordBits c) :
    fetchField c ws (ws.getD f.wordIndex 0) f
      = if (ws.length - f.wordIndex) * wordBits c < f.startBit + f.bitCount then .error .insufficientBits
        else .ok (BitVec.ofNat 64 (bitsOf (joined (wordBits c) (ws.drop f.wordIndex)) f.startBit f.bitCount)) := by
  have hw := wordBits_le c
  unfold fetchField
  by_cases one : f.startBit + f.bitCount ≤ wordBits c
  · have enough : wordBits c ≤ (ws.length - f.wordIndex) * wordBits c := Nat.le_mul_of_pos_left _ (by omega)
    rw [if_pos one, if_neg (by omega), extractBits_of_le count.1 (by omega), drop_eq_getD_cons inside,
      bitsOf_joined_cons_low _ _ one]
  · rw [if_neg one, extractAcross_eq ws _ _ _ rfl hw, if_neg (by omega), if_neg (by omega), if_neg (by omega)]

/-- Rule R169 in closed form. -/
theorem extractField_eq (c : Config) (ws : List Word) (f : BitFieldSpec) :
    extractField c ws f
      = if countAllowed f.kind f.bitCount = false then .error .rangeSize
        else if ws.length ≤ f.wordIndex then .error .bounds
        else if wordBits c ≤ f.startBit then .error .rangeSize
        else if (ws.length - f.wordIndex) * wordBits c < f.startBit + f.bitCount then .error .insufficientBits
        else .ok ⟨f.kind, kindPattern f.kind f.bitCount
          (bitsOf (joined (wordBits c) (ws.drop f.wordIndex)) f.startBit f.bitCount)⟩ := by
  unfold extractField
  rw [contractHolds_eq]
  cases allowed : countAllowed f.kind f.bitCount with
  | false => rfl
  | true =>
    by_cases outside : ws.length ≤ f.wordIndex
    · rw [if_pos outside, List.drop_eq_nil_of_le outside]
      rfl
    · have inside := Nat.lt_of_not_le outside
      rw [drop_eq_getD_cons inside]
      simp only [← drop_eq_getD_cons inside, if_true, outside, if_false, Bool.true_eq_false]
      refine if_ctx_congr Iff.rfl (fun _ => rfl) fun start => ?_
      rw [fetchField_eq (countAllowed_le allowed) inside (Nat.lt_of_not_le start)]
      by_cases short : (ws.length - f.wordIndex) * wordBits c < f.startBit + f.bitCount
      · simp only [if_pos short]
      · simp only [if_neg short, convert_of_countAllowed allowed (bitsOf_lt _ _ _)]

/-- In a table without repeated keys (rule R25) an entry is the one found under its key. -/
theorem lookupKey_of_mem {table : List (Nat × α)} {key : Nat} {v : α} (distinct : (table.map (·.1)).Nodup)
    (h : (key, v) ∈ table) : lookupKey table key = some v := by
  induction table with
  | nil => cases h
  | cons entry rest ih =>
    rw [List.map_cons, List.nodup_cons] at distinct
    obtain ⟨fresh, distinct⟩ := distinct
    rw [lookupKey]
    obtain rfl | later := List.mem_cons.mp h
    · exact if_pos rfl
    · have other : entry.1 ≠ key := fun same => fresh (same ▸ List.mem_map_of_mem later)
      rw [if_neg other, ih distinct later]

/-! The operations as `exec` runs them. -/

section
variable {s : State} {ws : List Word} (h : presents s (.words ws))
include h

theorem exec_extractAcross_of_presents (i p n : Nat) :
    exec (.extractAcross i p n) s
      = .next (s.answer ((extractAcross ws i p n (wordWidth s.cfg)).map .scalar)) :=
  withWords_of_presents h _

theorem exec_extractRange_of_presents (first last p : Nat) :
    exec (.extractRange first last p) s = .next (s.answer ((extractRange s.cfg ws first last p).map .scalar)) :=
  withWords_of_presents h _

theorem exec_extractField_of_presents (i p n : Nat) (kind : ValueKind) :
    exec (.extractField i p n kind) s = answerTyped s (extractField s.cfg ws ⟨i, p, n, kind⟩) :=
  withWords_of_presents h _

theorem exec_extractNamed_of_presents (key : Nat) :
    exec (.extractNamed key) s = answerTyped s (extractNamed s.cfg ws key) :=
  withWords_of_presents h _

end

theorem answerTyped_extractField (s : State) (ws : List Word) (f : BitFieldSpec) :
    answerTyped s (extractField s.cfg ws f) = .next (fieldOutcome s ws f) := by
  simp only [extractField_eq, answerTyped, answer_map_ite]
  rfl

/-- Settles O28: the closed form of the walk, at the width of the first word addressed. -/
theorem extractAcrossGivesTheJoinedField : Obligations.ExtractAcrossGivesTheJoinedField := by
  intro s ws i p n h
  rw [exec_extractAcross_of_presents h, extractAcross_eq ws i p n rfl (wordWidth_le _ _)]
  simp only [answer_map_ite]
  rfl

/-- Settles O29: the walk over a range that lies within the payload. -/
theorem extractRangeGivesAllBitsOfTheRange : Obligations.ExtractRangeGivesAllBitsOfTheRange := by
  intro s ws first last p h
  rw [exec_extractRange_of_presents h, extractRange_eq s.cfg ws first last p rfl]
  simp only [answer_map_ite]
  rfl

/-- Settles O30: one word or the walk, then the conversion of the kind. -/
theorem extractFieldGivesTheTypedField : Obligations.ExtractFieldGivesTheTypedField := fun s ws _ _ _ _ h =>
  (exec_extractField_of_presents h ..).trans (answerTyped_extractField s ws _)

/-- Settles O31: the entry under the key, where the table's keys are distinct, is the one looked up. -/
theorem extractNamedLooksUpTheField : Obligations.ExtractNamedLooksUpTheField := by
  intro s ws key h wellFormed
  rw [exec_extractNamed_of_presents h, extractNamed]
  constructor
  · intro absent
    rw [lookupKey_none.mpr absent]
    rfl
  · intro f present
    have distinct : (s.cfg.bitFields.map (·.1)).Nodup := by
      by_contra repeated
      exact wellFormed (.inr (.inr (.inr (.inl repeated))))
    rw [lookupKey_of_mem distinct present]
    exact answerTyped_extractField s ws f

end Sys2Proof.Machine
end

section
/-! Rules R181, R182: the decoding of a slice. A slice is `N * B` transport bytes whatever the framer, so its length is even
and StandardMode halves it. -/

namespace Sys2Proof.Machine

open Sys2Proof.Safety

/-! The length of a slice. -/

theorem sliceSize_eq (c : Config) : sliceSize c = c.expectedWordCount * byteWidth c := rfl

theorem sliceSize_pos {c : Config} (hN : 1 ≤ c.expectedWordCount) : 0 < sliceSize c := sliceBytes_pos c hN

theorem sliceSize_even (c : Config) : sliceSize c % 2 = 0 := by
  rw [sliceSize_eq]
  obtain ⟨h, -⟩ | ⟨h, -⟩ | ⟨h, -⟩ := byteWidth_cases c <;> rw [h] <;> omega

/-- Half a slice is whole words exactly where `N` is even. -/
theorem halfSlice_aligned_iff (c : Config) : sliceSize c / 2 % byteWidth c = 0 ↔ c.expectedWordCount % 2 = 0 := by
  rw [sliceSize_eq]
  obtain ⟨h, -⟩ | ⟨h, -⟩ | ⟨h, -⟩ := byteWidth_cases c <;> rw [h] <;> omega

theorem halfSlice_div (c : Config) : sliceSize c / 2 / byteWidth c = c.expectedWordCount / 2 := by
  rw [sliceSize_eq, Nat.div_right_comm, Nat.mul_div_cancel _ (byteWidth_pos c)]

/-! The pipeline behind the framer. -/

@[simp] theorem length_wordsOf (c : Config) (bs : List Byte) : (wordsOf c bs).length = bs.length / byteWidth c := by
  simp [wordsOf]

theorem decodeSlice_of_framerExtract {c : Config} {slice data : List Byte} (h : framerExtract c slice = .ok data) :
    decodeSlice c slice
      = if data.length % byteWidth c = 0 then .ok (wordSeqOf c (wordsOf c data)) else .error .alignment := by
  simp only [decodeSlice, decodeBytes, h, extractWords_eq]
  split_ifs <;> rfl

theorem decodeSlice_of_framerExtract_error {c : Config} {slice : List Byte} {e : OpError}
    (h : framerExtract c slice = .error e) : decodeSlice c slice = .error e := by
  simp only [decodeSlice, decodeBytes, h]

/-- Among symbols that are not all good there is a first bad one. -/
theorem exists_first_bad {order : PairOrder} {t : List Byte} (even : t.length % 2 = 0) (h : ¬ wellFramed order t) :
    ∃ k < t.length / 2, (∀ j < k, goodSymbol (pairAt order t j)) ∧ ¬ goodSymbol (pairAt order t k) := by
  classical
  have bad : ∃ k, k < t.length / 2 ∧ ¬ goodSymbol (pairAt order t k) := by
    by_contra none
    push Not at none
    exact h ⟨even, none⟩
  obtain ⟨inside, first⟩ := Nat.find_spec bad
  refine ⟨Nat.find bad, inside, fun j hj => ?_, first⟩
  by_contra earlier
  exact Nat.find_min bad hj ⟨hj.trans inside, earlier⟩

theorem symbolFault_ne_oddLength (v : Nat) : symbolFault v ≠ .oddLength := by
  unfold symbolFault
  split <;> simp

section
variable {c : Config} {slice : List Byte} (hlen : slice.length = sliceSize c)
include hlen

theorem decodeSlice_of_passthrough (hf : c.framer = .passthrough) :
    decodeSlice c slice = .ok (wordSeqOf c (wordsOf c slice)) := by
  rw [decodeSlice_of_framerExtract (framerExtract_of_passthrough hf), if_pos]
  rw [hlen, sliceSize_eq, Nat.mul_mod_left]

theorem length_wordsOf_slice : (wordsOf c slice).length = c.expectedWordCount := by
  rw [length_wordsOf, hlen, sliceSize_eq, Nat.mul_div_cancel _ (byteWidth_pos c)]

theorem decodeSlice_of_wellFramed (hf : c.framer = .standardMode) (good : wellFramed c.pairOrder slice) :
    decodeSlice c slice
      = if c.expectedWordCount % 2 = 0 then .ok (wordSeqOf c (wordsOf c (dataOf c.pairOrder slice)))
        else .error .alignment := by
  rw [decodeSlice_of_framerExtract (framerExtract_of_wellFramed hf good), length_dataOf, hlen]
  exact if_congr (halfSlice_aligned_iff c) rfl rfl

theorem length_wordsOf_dataOf_slice :
    (wordsOf c (dataOf c.pairOrder slice)).length = c.expectedWordCount / 2 := by
  rw [length_wordsOf, length_dataOf, hlen, halfSlice_div]

/-- A slice's length is even, so that its FramingError is that of a symbol. -/
theorem framerExtract_slice_of_not_wellFramed (hf : c.framer = .standardMode) (bad : ¬ wellFramed c.pairOrder slice) :
    ∃ sub k, sub ≠ SubCause.oddLength ∧ framerExtract c slice = .error (.framing sub k) := by
  have even : slice.length % 2 = 0 := hlen ▸ sliceSize_even c
  obtain ⟨k, inside, before, first⟩ := exists_first_bad even bad
  exact ⟨_, k, symbolFault_ne_oddLength _, framerExtract_of_first_bad hf even inside before first⟩

end

/-- Settles O32: one clause for each way the framer and the alignment of its data bytes can end. -/
theorem sliceDecodingByFramer : Obligations.SliceDecodingByFramer := by
  intro c slice hlen hN
  refine ⟨?passthrough, ?evenCount, ?oddCount, ?badlyFramed⟩
  case passthrough =>
    intro hf
    have count := length_wordsOf_slice hlen
    exact ⟨_, decodeSlice_of_passthrough hlen hf, rfl, count, decide_eq_true count⟩
  case evenCount =>
    intro hf good even
    have count := length_wordsOf_dataOf_slice hlen
    refine ⟨_, (decodeSlice_of_wellFramed hlen hf good).trans (if_pos even), rfl, count, decide_eq_false ?_⟩
    simp only [WordSeq.travel_words, wordSeqOf_words, count, WordSeq.travel_expectedWordCount,
      wordSeqOf_expectedWordCount]
    omega
  case oddCount =>
    intro hf good odd
    exact (decodeSlice_of_wellFramed hlen hf good).trans (if_neg (by omega))
  case badlyFramed =>
    intro hf bad
    obtain ⟨sub, k, notOdd, raised⟩ := framerExtract_slice_of_not_wellFramed hlen hf bad
    refine ⟨sub, k, notOdd, decodeSlice_of_framerExtract_error raised, raised, ?_⟩
    rintro s rfl h
    exact exec_frExtract_of_framing h raised

end Sys2Proof.Machine
end

section
/-! Rules R183 to R188, R198, R199: FEED and FEED_BYTE. `feedBytes` has four ends, each said once as an equation: no slice
size, no room, every whole slice decoded, a slice that does not decode. -/

namespace Sys2Proof.Machine

open Sys2Proof.Safety

/-! The end of a FEED that fails. -/

/-- The events of the messages decoded before a failing slice: none or all of them (rule R198). -/
def signalledOnFailure (s : State) (ms : List Message) : List Output :=
  if s.cfg.stream && Config.freeSignalled s.freeIx then ms.map .msgOut else []

theorem signalledOnFailure_cases (s : State) (ms : List Message) :
    signalledOnFailure s ms = [] ∨ signalledOnFailure s ms = streamed s.cfg ms := by
  unfold signalledOnFailure streamed
  cases s.cfg.stream with
  | false => exact .inl rfl
  | true => cases Config.freeSignalled s.freeIx <;> simp

/-- The next state of a FEED that fails with `e` behind the messages `ms`: the policy cuts buffer and chunk (rule R186). -/
def feedFailed (s : State) (chunk : List Byte) (ms : List Message) (e : OpError) : State :=
  { s with
    buf := failBuffer s.cfg s.freeIx ms.length (s.buf ++ chunk)
    inbox := s.inbox.tail
    out := s.out ++ signalledOnFailure s ms ++ [.response ⟨statusCode e, infoWord e, none⟩]
    freeIx := s.freeIx + 1 }

/-- The writes of a FEED that fails, in one. -/
theorem raise_eq_feedFailed (s : State) (chunk : List Byte) (ms : List Message) (e : OpError) :
    ((((s.setBuf (failBuffer s.cfg s.freeIx ms.length (s.buf ++ chunk))).streamFailed ms).useFree).raise e)
      = feedFailed s chunk ms e := by
  unfold State.streamFailed feedFailed signalledOnFailure
  split <;> simp_all [failed, withResponse, State.setBuf, State.signal, State.useFree]

/-! The four ends of feeding bytes. -/

section
variable {s : State} {chunk : List Byte}

theorem feedBytes_of_no_sliceSize (hE : sliceSize s.cfg = 0) : feedBytes s chunk = .fault .drainNeverEnds :=
  if_pos hE

theorem feedBytes_of_no_room (hE : 0 < sliceSize s.cfg) (full : ¬ roomFor s.cfg (s.buf ++ chunk).length) :
    feedBytes s chunk = .refused .bufferCapacity :=
  (if_neg hE.ne').trans (if_neg fun within => full ((withinCapacity_iff _ _).mp within))

section
variable (hE : 0 < sliceSize s.cfg) (room : roomFor s.cfg (s.buf ++ chunk).length) {ms : List WordSeq}
include hE room

theorem feedBytes_of_decodeSlices_ok
    (h : decodeSlices s.cfg ((s.buf ++ chunk).length / sliceSize s.cfg) (s.buf ++ chunk) = (ms, none)) :
    feedBytes s chunk = .next (drained s chunk (ms.map WordSeq.travel)) := by
  have within := (withinCapacity_iff _ _).mpr room
  rw [← sliceBytes_eq_sliceSize] at hE h
  simp only [feedBytes, hE.ne', if_false, within, if_true, h, drain_eq_drained]

theorem feedBytes_of_decodeSlices_error {e : OpError}
    (h : decodeSlices s.cfg ((s.buf ++ chunk).length / sliceSize s.cfg) (s.buf ++ chunk) = (ms, some e)) :
    feedBytes s chunk = .next (feedFailed s chunk (ms.map WordSeq.travel) e) := by
  have within := (withinCapacity_iff _ _).mpr room
  rw [← sliceBytes_eq_sliceSize] at hE h
  simp only [feedBytes, hE.ne', if_false, within, if_true, h, raise_eq_feedFailed]

end

end

/-- The same state with another event presented. -/
def State.presenting (s : State) (event : HostEvent) : State := { s with inbox := event :: s.inbox.tail }

/-- Feeding bytes answers the event presented and reads nothing of it. -/
theorem feedBytes_presenting (s : State) (event : HostEvent) (chunk : List Byte) :
    feedBytes (s.presenting event) chunk = feedBytes s chunk := by
  obtain hE | hE := Nat.eq_zero_or_pos (sliceSize s.cfg)
  · exact (feedBytes_of_no_sliceSize (s := s.presenting event) hE).trans (feedBytes_of_no_sliceSize hE).symm
  by_cases room : roomFor s.cfg (s.buf ++ chunk).length
  · match h : decodeSlices s.cfg ((s.buf ++ chunk).length / sliceSize s.cfg) (s.buf ++ chunk) with
    | (ms, none) =>
      exact (feedBytes_of_decodeSlices_ok (s := s.presenting event) hE room h).trans
        (feedBytes_of_decodeSlices_ok hE room h).symm
    | (ms, some e) =>
      exact (feedBytes_of_decodeSlices_error (s := s.presenting event) hE room h).trans
        (feedBytes_of_decodeSlices_error hE room h).symm
  · exact (feedBytes_of_no_room (s := s.presenting event) hE room).trans (feedBytes_of_no_room hE room).symm

/-! The loop of FEED. -/

/-- Where slices decode to `ms` and the next one does not decode, the loop stops there. -/
theorem decodeSlices_of_first_error {c : Config} {all : List Byte} {ms : List WordSeq} {e : OpError} {k : Nat}
    (hk : ms.length < k) (hms : ∀ j (hj : j < ms.length), decodeSlice c (piece all j (sliceSize c)) = .ok ms[j])
    (he : decodeSlice c (piece all ms.length (sliceSize c)) = .error e) : decodeSlices c k all = (ms, some e) := by
  match h : decodeSlices c k all with
  | (ms', none) =>
    obtain ⟨rfl, hms'⟩ := decodeSlices_ok h
    cases he.symm.trans (hms' _ hk)
  | (ms', some e') =>
    obtain ⟨-, hms', he'⟩ := decodeSlices_error h
    have same : ms.length = ms'.length := by
      obtain short | same | long := Nat.lt_trichotomy ms.length ms'.length
      · cases he.symm.trans (hms' _ short)
      · exact same
      · cases (hms _ long).symm.trans he'
    have words : ms' = ms := List.ext_getElem same.symm fun j hj' hj =>
      Except.ok.inj ((hms' j hj').symm.trans (hms j hj))
    subst words
    cases he.symm.trans he'
    rfl

/-! The commands as `exec` runs them. -/

theorem exec_feed_of_presents {s : State} {chunk : List Byte} (h : presents s (.bytes chunk)) :
    exec .feed s = feedBytes s chunk :=
  withBytes_of_presents h _

theorem exec_feedByte_of_presents {s : State} (h : presents s .nothing) (byte : Byte) :
    exec (.feedByte byte) s = feedBytes s [byte] :=
  withNothing_of_presents h _

/-- Rules R183, R184, R198. -/
theorem feedBytes_of_pieces_ok {s : State} {chunk : List Byte} {ms : List WordSeq} (hE : 0 < sliceSize s.cfg)
    (room : roomFor s.cfg (s.buf ++ chunk).length) (hlen : ms.length = (s.buf ++ chunk).length / sliceSize s.cfg)
    (hms : ∀ j (h : j < ms.length), decodeSlice s.cfg (piece (s.buf ++ chunk) j (sliceSize s.cfg)) = .ok ms[j]) :
    feedBytes s chunk = .next (drained s chunk (ms.map WordSeq.travel)) :=
  feedBytes_of_decodeSlices_ok hE room (hlen ▸ decodeSlices_of_all_ok hms)

/-- What the whole slices of `all` decode to under Passthrough. -/
def passthroughDecodes (c : Config) (all : List Byte) : List WordSeq :=
  (List.range (all.length / sliceSize c)).map fun j => wordSeqOf c (wordsOf c (piece all j (sliceSize c)))

theorem length_passthroughDecodes (c : Config) (all : List Byte) :
    (passthroughDecodes c all).length = all.length / sliceSize c := by
  simp [passthroughDecodes]

theorem map_travel_passthroughDecodes (c : Config) (all : List Byte) :
    (passthroughDecodes c all).map WordSeq.travel = passthroughMessages c all :=
  List.map_map

theorem decodeSlice_piece_of_passthrough {c : Config} {all : List Byte} (hf : c.framer = .passthrough) (j : Nat)
    (hj : j < (passthroughDecodes c all).length) :
    decodeSlice c (piece all j (sliceSize c)) = .ok (passthroughDecodes c all)[j] := by
  have inside : (j + 1) * sliceSize c ≤ all.length :=
    Nat.mul_le_of_le_div _ _ _ (length_passthroughDecodes c all ▸ hj)
  have hlen : (piece all j (sliceSize c)).length = sliceSize c := by
    rw [Nat.succ_mul] at inside
    rw [piece, List.length_take_of_le]
    rw [List.length_drop]
    omega
  simp [decodeSlice_of_passthrough hlen hf, passthroughDecodes]

/-- Rule R182: under Passthrough FEED never fails. -/
theorem feedBytes_of_passthrough {s : State} {chunk : List Byte} (hE : 0 < sliceSize s.cfg)
    (room : roomFor s.cfg (s.buf ++ chunk).length) (hf : s.cfg.framer = .passthrough) :
    feedBytes s chunk = .next (feedOutcome s chunk) := by
  rw [feedOutcome, ← map_travel_passthroughDecodes]
  exact feedBytes_of_pieces_ok hE room (length_passthroughDecodes ..) (decodeSlice_piece_of_passthrough hf)

/-- Settles O33: the loop decodes every whole slice. -/
theorem feedDrainsEveryWholeSlice : Obligations.FeedDrainsEveryWholeSlice := by
  intro s chunk h hN room
  rw [exec_feed_of_presents h]
  exact ⟨fun _ => feedBytes_of_pieces_ok (sliceSize_pos hN) room, feedBytes_of_passthrough (sliceSize_pos hN) room⟩

/-- Settles O34: of the two ways a FEED can end, only the one that drains every whole slice answers OK. -/
theorem feedCountingLaw : Obligations.FeedCountingLaw := by
  intro s t chunk events ms h hrun hout
  rw [exec_feed_of_presents h] at hrun
  have last : lastResponse t = some ⟨0, 0, some (.messages ms)⟩ := by simp [lastResponse, hout]
  have rest := feedBytes_ok_buf_length hrun last rfl
  obtain ⟨-, drains⟩ := feedBytes_ok hrun last rfl rfl
  obtain ⟨hE, -, ⟨ws, hws, rfl⟩ | ⟨ws, e, -, rfl⟩⟩ := feedBytes_next hrun
  · rw [drained_out, List.append_assoc, List.append_assoc, List.append_cancel_left_eq] at hout
    obtain ⟨hevents, hresponse⟩ := List.append_inj' hout rfl
    obtain rfl : ws.map WordSeq.travel = ms := by simpa using hresponse
    rw [← List.length_append]
    exact ⟨(List.length_map _).trans (decodeSlices_ok hws).1, rest, rfl, hevents.symm, drains_getElem drains⟩
  · exact absurd rfl (status_ne_zero_of_raise last)

/-- Settles O35: the loop stops at the first slice that does not decode, and `feedFailed` keeps within the policy. -/
theorem failedFeedFollowsThePolicy : Obligations.FailedFeedFollowsThePolicy := by
  intro s chunk ms e h hN room hms hfit he
  have hE : 0 < sliceSize s.cfg := sliceSize_pos hN
  have whole : ms.length < (s.buf ++ chunk).length / sliceSize s.cfg := (Nat.le_div_iff_mul_le hE).mpr hfit
  refine ⟨slicesDropped s.cfg s.freeIx ms.length, signalledOnFailure s (ms.map WordSeq.travel), ?_,
    slicesDropped_allowed s.cfg s.freeIx ms.length, signalledOnFailure_cases s (ms.map WordSeq.travel)⟩
  rw [exec_feed_of_presents h,
    feedBytes_of_decodeSlices_error hE room (decodeSlices_of_first_error whole hms he), feedFailed, List.length_map]
  rfl

/-- Settles O36: both commands feed the one byte, whatever event brings it. -/
theorem feedByteIsFeedOfOneByte : Obligations.FeedByteIsFeedOfOneByte := by
  intro s byte h
  rw [exec_feedByte_of_presents h]
  constructor
  · intro word
    rw [exec_feed_of_presents ⟨word, _, rfl⟩]
    exact (feedBytes_presenting s (.command word (.bytes [byte])) [byte]).symm
  · intro hf hN room
    exact feedBytes_of_passthrough (sliceSize_pos hN) (by simpa using room) hf

/-- Settles O37: neither command has room. -/
theorem feedBeyondCapacityIsRefused : Obligations.FeedBeyondCapacityIsRefused := by
  intro s chunk cap hN hcap exceeds
  have full : ¬ roomFor s.cfg (s.buf ++ chunk).length := fun room =>
    exceeds.not_ge (List.length_append ▸ room cap hcap)
  have refused := feedBytes_of_no_room (sliceSize_pos hN) full
  refine ⟨fun h => (exec_feed_of_presents h).trans refused, ?_⟩
  rintro byte rfl h
  exact (exec_feedByte_of_presents h byte).trans refused

end Sys2Proof.Machine
end

section
/-! Rule R185: where the chunk boundaries fall. A sequence of OK feeds drains the bytes fed and leaves less than a slice, and
the bytes alone determine such a drain. -/

namespace Sys2Proof.Machine

open Sys2Proof.Safety

theorem drains_rest {c : Config} {all rest : List Byte} {ms : List Message} (h : Drains c all ms rest) :
    rest = all.drop (ms.length * sliceSize c) := by
  induction h with
  | done => simp
  | slice hlen _ _ ih => rw [List.length_cons, Nat.succ_mul, Nat.add_comm, ← List.drop_drop, List.drop_left' hlen, ih]

/-- A drain that leaves less than a slice has taken every whole slice. -/
theorem drains_count {c : Config} {all rest : List Byte} {ms : List Message} (h : Drains c all ms rest)
    (short : rest.length < sliceSize c) : ms.length = all.length / sliceSize c := by
  have total := drains_length h
  refine (Nat.div_eq_of_lt_le ?_ ?_).symm
  · omega
  · rw [Nat.succ_mul]
    omega

theorem drains_unique {c : Config} {all rest rest' : List Byte} {ms ms' : List Message} (h : Drains c all ms rest)
    (h' : Drains c all ms' rest') (short : rest.length < sliceSize c) (short' : rest'.length < sliceSize c) :
    ms = ms' ∧ rest = rest' := by
  have count : ms.length = ms'.length := (drains_count h short).trans (drains_count h' short').symm
  refine ⟨List.ext_getElem count fun k hk hk' => ?_, ?_⟩
  · obtain ⟨m, decoded, message⟩ := drains_getElem h k hk
    obtain ⟨m', decoded', message'⟩ := drains_getElem h' k hk'
    cases decoded.symm.trans decoded'
    exact message.trans message'.symm
  · rw [drains_rest h, drains_rest h', count]

/-- Rule R32: an OK feed leaves no message pending. -/
theorem feedOne_buf_length_lt {s t : State} {op : FeedOp} {ms : List Message} (hE : 0 < sliceSize s.cfg)
    (h : feedOne s op = some (t, ms)) : t.buf.length < sliceSize s.cfg := by
  obtain ⟨r, hstep, hr, hok, -⟩ := feedOne_some h
  rw [feedBytes_ok_buf_length (feedBytes_of_step_presentFeed hstep) hr hok]
  exact Nat.mod_lt _ hE

theorem feedRun_buf_length_lt {s t : State} {ops : List FeedOp} {ms : List Message}
    (short : s.buf.length < sliceSize s.cfg) (h : feedRun s ops = some (t, ms)) : t.buf.length < sliceSize s.cfg := by
  induction ops generalizing s ms with
  | nil =>
    obtain ⟨rfl, -⟩ : s = t ∧ [] = ms := by simpa [feedRun] using h
    exact short
  | cons op ops ih =>
    obtain ⟨mid, _, more, hone, hrun, -⟩ := feedRun_cons h
    obtain ⟨hcfg, -⟩ := feedOne_drains hone
    have mid_short := feedOne_buf_length_lt (Nat.zero_lt_of_lt short) hone
    rw [← hcfg] at mid_short ⊢
    exact ih mid_short hrun

theorem fedBytes_map_feedByte (bs : List Byte) : fedBytes (bs.map .feedByte) = bs := by
  simp [fedBytes, List.flatMap_map, FeedOp.fed]

/-- Settles O43: runs that bring the same bytes are drains of the same bytes; fed byte by byte, a run of `k` bytes makes
`k / E` messages. -/
theorem chunkBoundariesDoNotMatter : Obligations.ChunkBoundariesDoNotMatter := by
  constructor
  · intro s t u ops ops' ms ms' short same hrun hrun'
    have drains := feedRun_drains hrun
    rw [same] at drains
    exact drains_unique drains (feedRun_drains hrun') (feedRun_buf_length_lt short hrun)
      (feedRun_buf_length_lt short hrun')
  · intro s t bs k ms hbuf hN hlen hk hrun
    have hE : 0 < sliceSize s.cfg := sliceSize_pos hN
    have drains := feedRun_drains hrun
    rw [hbuf, List.nil_append, fedBytes_map_feedByte] at drains
    rw [drains_count drains (feedRun_buf_length_lt (by simpa [hbuf] using hE) hrun), List.length_take_of_le hk, hlen]
    split
    next last => rw [last, Nat.div_self hE]
    next before => exact Nat.div_eq_of_lt (lt_of_le_of_ne (hlen ▸ hk) before)

end Sys2Proof.Machine
end

section
/-! Rules R190 to R196, R263: PEEK, POLL and RESET. -/

namespace Sys2Proof.Machine

open Sys2Proof.Safety

theorem hasMsg_iff (s : State) : hasMsg s = true ↔ sliceSize s.cfg ≤ s.buf.length := decide_eq_true_iff

section
variable {s : State} (h : presents s .nothing)
include h

theorem exec_peek_of_short (short : s.buf.length < sliceSize s.cfg) :
    exec .peek s = .next (answered s .noMessage) :=
  (withNothing_of_presents h _).trans (if_neg fun pending => short.not_ge ((hasMsg_iff s).mp pending))

theorem exec_peek_of_whole (whole : sliceSize s.cfg ≤ s.buf.length) :
    exec .peek s
      = .next (s.answer ((decodeSlice s.cfg (s.buf.take (sliceSize s.cfg))).map fun m => .message m.travel)) :=
  (withNothing_of_presents h _).trans (if_pos ((hasMsg_iff s).mpr whole))

theorem exec_poll_of_short (short : s.buf.length < sliceSize s.cfg) :
    exec .poll s = .next (answered s .noMessage) :=
  (withNothing_of_presents h _).trans (if_neg fun pending => short.not_ge ((hasMsg_iff s).mp pending))

theorem exec_poll_of_ok (whole : sliceSize s.cfg ≤ s.buf.length) {m : WordSeq}
    (hm : decodeSlice s.cfg (s.buf.take (sliceSize s.cfg)) = .ok m) :
    exec .poll s = .next (answered (s.setBuf (s.buf.drop (sliceSize s.cfg))) (.message m.travel)) := by
  refine (withNothing_of_presents h _).trans ?_
  simp only [(hasMsg_iff s).mpr whole, if_true, sliceBytes_eq_sliceSize, hm, answerOk_eq_answered]

theorem exec_poll_of_error (whole : sliceSize s.cfg ≤ s.buf.length) {e : OpError}
    (he : decodeSlice s.cfg (s.buf.take (sliceSize s.cfg)) = .error e) :
    exec .poll s = .next
      (failed ((s.setBuf (failBuffer s.cfg s.freeIx 0 s.buf)).useFree) (statusCode e) (infoWord e)) := by
  refine (withNothing_of_presents h _).trans ?_
  simp only [(hasMsg_iff s).mpr whole, if_true, sliceBytes_eq_sliceSize, he, raise_eq_failed]

theorem exec_reset_of_presents : exec .reset s = .next (answered (s.setBuf []) .nothing) :=
  withNothing_of_presents h _

end

/-- Settles O38: PEEK answers the decode of the front slice where there is one. -/
theorem peekShowsTheFrontMessage : Obligations.PeekShowsTheFrontMessage := by
  intro s h
  refine ⟨exec_peek_of_short h, ?_, ?_⟩
  · intro whole m hm
    rw [exec_peek_of_whole h whole, hm]
    rfl
  · intro whole e he
    rw [exec_peek_of_whole h whole, he]
    rfl

/-- Settles O39: as PEEK, with one slice leaving the buffer, or what the policy lets leave it. -/
theorem pollRemovesTheFrontMessage : Obligations.PollRemovesTheFrontMessage := fun s h =>
  ⟨exec_poll_of_short h, fun whole _ => exec_poll_of_ok h whole, fun whole _ he =>
    ⟨slicesDropped s.cfg s.freeIx 0, slicesDropped_allowed s.cfg s.freeIx 0, exec_poll_of_error h whole he⟩⟩

/-- Settles O40: RESET writes the empty buffer and answers. -/
theorem resetDiscardsTheBuffer : Obligations.ResetDiscardsTheBuffer := fun _ => exec_reset_of_presents

/-- Rules R260 to R262: a hard reset with a well-formed configuration is carried out. -/
theorem step_hardReset {s : State} {c : Config} {rest : List HostEvent} (hin : s.inbox = .hardReset c :: rest)
    (wellFormed : ¬ malformed c) : step s = .next (s.construct c) := by
  simp [step, fetch, hin, hardReset, (configOk_iff c).mpr wellFormed]

/-- Settles O41: both leave the configuration in force, the empty buffer, the later events and the free values. -/
theorem resetEqualsHardResetInPlace : Obligations.ResetEqualsHardResetInPlace := by
  intro s t u word rest wellFormed hreset hhard
  cases (exec_reset_of_presents ⟨word, rest, rfl⟩).symm.trans hreset
  cases (step_hardReset rfl wellFormed).symm.trans hhard
  rfl

end Sys2Proof.Machine
end

section
/-! Rules R211 to R216: DECODE, ENCODE, SEQ_TO_BYTES and SEQ_VALID. Each stage of the pipeline is inverted on its own, a word
by its window and a byte by its symbol, and the stages are then put together. -/

namespace Sys2Proof.Machine

open Sys2Proof.Safety

/-! The words of a byte sequence, one window after another (rules R101, R215). -/

theorem piece_append_zero {α : Type} {win : List α} {n : Nat} (hlen : win.length = n) (rest : List α) :
    piece (win ++ rest) 0 n = win := by
  rw [piece, Nat.zero_mul, List.drop_zero, List.take_left' hlen]

theorem piece_append_succ {α : Type} {win : List α} {n : Nat} (hlen : win.length = n) (rest : List α) (i : Nat) :
    piece (win ++ rest) (i + 1) n = piece rest i n := by
  rw [piece, Nat.succ_mul, Nat.add_comm, ← List.drop_drop, List.drop_left' hlen, piece]

section
variable {c : Config}

@[simp] theorem wordsOf_nil : wordsOf c [] = [] := by simp [wordsOf]

/-- The first word of a byte sequence is that of its first window. -/
theorem wordsOf_append {win : List Byte} (hlen : win.length = byteWidth c) (rest : List Byte) :
    wordsOf c (win ++ rest) = assemble c.order win :: wordsOf c rest := by
  have count : (win ++ rest).length / byteWidth c = rest.length / byteWidth c + 1 := by
    rw [List.length_append, hlen, Nat.add_div_left _ (byteWidth_pos c)]
  rw [wordsOf, count, List.range_succ_eq_map, List.map_cons, List.map_map, piece_append_zero hlen,
    assemble_eq_orderSum c.order win (hlen ▸ byteWidth_le c)]
  simp only [Function.comp_def, Nat.succ_eq_add_one, piece_append_succ hlen, wordsOf]

@[simp] theorem length_wordToBytes (w : Word) : (wordToBytes c w).length = byteWidth c := length_disassemble _ _ w

/-- Rule R55 (a) at the width of the configuration. -/
theorem assemble_wordToBytes {w : Word} (valid : w.toNat < 2 ^ wordBits c) :
    assemble c.order (wordToBytes c w) = w :=
  assemble_disassemble c.order (byteWidth c) w (wordBits_eq c ▸ valid)

theorem seqToBytes_cons (w : Word) (ws : List Word) : seqToBytes c (w :: ws) = wordToBytes c w ++ seqToBytes c ws :=
  List.flatMap_cons

theorem length_seqToBytes (ws : List Word) : (seqToBytes c ws).length = ws.length * byteWidth c := by
  simp [seqToBytes, List.length_flatMap]

/-- Rule R215 in closed form. -/
theorem seqToBytes_eq_bytesOf (ws : List Word) : seqToBytes c ws = bytesOf c ws :=
  congrArg (ws.flatMap ·) (funext (wordToBytes_eq c))

/-- Valid Words are read back from their bytes. -/
theorem wordsOf_seqToBytes {ws : List Word} (valid : allValid c ws) : wordsOf c (seqToBytes c ws) = ws := by
  induction ws with
  | nil => exact wordsOf_nil
  | cons w ws ih =>
    obtain ⟨first, others⟩ := List.forall_mem_cons.mp valid
    rw [seqToBytes_cons, wordsOf_append (length_wordToBytes w), assemble_wordToBytes first, ih others]

/-- Aligned bytes are written back from their words. -/
theorem seqToBytes_wordsOf {bs : List Byte} (alignment : bs.length % byteWidth c = 0) :
    seqToBytes c (wordsOf c bs) = bs := by
  obtain ⟨n, hlen⟩ := Nat.dvd_of_mod_eq_zero alignment
  induction n generalizing bs with
  | zero =>
    rw [List.eq_nil_of_length_eq_zero hlen, wordsOf_nil]
    rfl
  | succ n ih =>
    rw [Nat.mul_succ] at hlen
    have first : (bs.take (byteWidth c)).length = byteWidth c := List.length_take_of_le (by omega)
    have others : (bs.drop (byteWidth c)).length = byteWidth c * n := by rw [List.length_drop]; omega
    calc seqToBytes c (wordsOf c bs)
        = seqToBytes c (wordsOf c (bs.take (byteWidth c) ++ bs.drop (byteWidth c))) := by rw [List.take_append_drop]
      _ = bs.take (byteWidth c) ++ bs.drop (byteWidth c) := by
        rw [wordsOf_append first, seqToBytes_cons, wordToBytes_assemble first,
          ih (others ▸ Nat.mul_mod_right _ _) others]
      _ = bs := List.take_append_drop _ _

end

/-! Symbols whose bits 15:10 are clear are written back as they were (rules R125, R127). -/

/-- With the start bit, the stop bit and bits 15:10 fixed, the data byte is all that a symbol holds. -/
theorem symbolOf_symbolData {v : BitVec 16} (good : goodSymbol v.toNat) (clear : v.toNat < 1024) :
    symbolOf (symbolData v) = v := by
  obtain ⟨start, stop⟩ := good
  apply BitVec.eq_of_toNat_eq
  rw [toNat_symbolOf, symbolData_eq, BitVec.toNat_ofNat]
  omega

/-- Two bytes joined are the low and the high byte of what they join to. -/
theorem bytes_of_or_shiftLeft (lo hi : Byte) :
    (lo.setWidth 16 ||| hi.setWidth 16 <<< 8).extractLsb' 0 8 = lo
      ∧ (lo.setWidth 16 ||| hi.setWidth 16 <<< 8).extractLsb' 8 8 = hi := by
  have hlo : lo.toNat < 2 ^ 8 := lo.isLt
  have hhi : hi.toNat < 2 ^ 8 := hi.isLt
  rw [lowByte_eq, highByte_eq, toNat_or_shiftLeft_bytes]
  constructor
  · apply BitVec.eq_of_toNat_eq
    rw [BitVec.toNat_ofNat]
    omega
  · apply BitVec.eq_of_toNat_eq
    rw [BitVec.toNat_ofNat]
    omega

/-- A symbol is written as the pair that has its value (rule R122). -/
theorem encodeSymbol_of_pairValue {order : PairOrder} {b0 b1 d : Byte} (h : symbolOf d = pairValue order b0 b1) :
    encodeSymbol order d = [b0, b1] := by
  cases order with
  | loFirst =>
    obtain ⟨low, high⟩ := bytes_of_or_shiftLeft b0 b1
    simp only [encodeSymbol, h, pairValue, low, high]
  | hiFirst =>
    obtain ⟨low, high⟩ := bytes_of_or_shiftLeft b1 b0
    simp only [encodeSymbol, h, pairValue, low, high]

theorem flatMap_encodeSymbol_dataOf {order : PairOrder} {t : List Byte} (good : wellFramed order t)
    (clear : ∀ k < t.length / 2, pairAt order t k < 1024) : (dataOf order t).flatMap (encodeSymbol order) = t := by
  obtain ⟨even, good⟩ := good
  fun_induction symbolsGood order t with
  | case1 b0 b1 rest ih =>
    rw [pairCount_cons, Nat.forall_lt_succ_left, ← toNat_pairValue] at good clear
    simp only [pairAt_succ] at good clear
    obtain ⟨goodFirst, goodRest⟩ := good
    obtain ⟨clearFirst, clearRest⟩ := clear
    have evenRest : rest.length % 2 = 0 := by simpa [Nat.add_assoc] using even
    rw [dataOf_cons, List.flatMap_cons, ih clearRest evenRest goodRest,
      encodeSymbol_of_pairValue (symbolOf_symbolData goodFirst clearFirst)]
    rfl
  | case2 t short =>
    have empty : t = [] := List.eq_nil_of_length_eq_zero (by have := pairCount_of_short short; omega)
    rw [empty]
    rfl

/-- Encoding inverts extraction under Passthrough, and on symbols with bits 15:10 clear. -/
theorem framerEncode_of_framerExtract {c : Config} {t data : List Byte} (extracted : framerExtract c t = .ok data)
    (clear : c.framer = .passthrough ∨ ∀ k < t.length / 2, pairAt c.pairOrder t k < 1024) :
    framerEncode c data = t := by
  cases hf : c.framer with
  | passthrough =>
    cases (framerExtract_of_passthrough hf).symm.trans extracted
    simp [framerEncode, hf]
  | standardMode =>
    have clear : ∀ k < t.length / 2, pairAt c.pairOrder t k < 1024 := clear.resolve_left (by simp [hf])
    by_cases good : wellFramed c.pairOrder t
    · cases (framerExtract_of_wellFramed hf good).symm.trans extracted
      simp [framerEncode, hf, flatMap_encodeSymbol_dataOf good clear]
    · obtain ⟨sub, symbol, raised⟩ := framerExtract_of_not_wellFramed hf good
      cases raised.symm.trans extracted

/-! The pipeline and its inverse (rule R214). -/

/-- Rule R211 behind the framer: a slice is decoded as any other transport bytes are. -/
theorem decodeBytes_of_framerExtract {c : Config} {t data : List Byte} (h : framerExtract c t = .ok data) :
    decodeBytes c t = if data.length % byteWidth c = 0 then .ok (wordSeqOf c (wordsOf c data)) else .error .alignment :=
  decodeSlice_of_framerExtract h

theorem decodeBytes_encodeWords {c : Config} {ws : List Word} (valid : allValid c ws) :
    decodeBytes c (encodeWords c ws) = .ok (wordSeqOf c ws) := by
  have alignment : (seqToBytes c ws).length % byteWidth c = 0 := by rw [length_seqToBytes, Nat.mul_mod_left]
  rw [encodeWords, decodeBytes_of_framerExtract (framingRoundTrips c _), if_pos alignment, wordsOf_seqToBytes valid]

theorem encodeWords_of_decodeBytes {c : Config} {t : List Byte} {m : WordSeq} (decoded : decodeBytes c t = .ok m)
    (clear : c.framer = .passthrough ∨ ∀ k < t.length / 2, pairAt c.pairOrder t k < 1024) :
    encodeWords c m.words = t := by
  obtain ⟨data, extracted⟩ : ∃ data, framerExtract c t = .ok data := by
    obtain ⟨data, -, extracted, -⟩ | ⟨sub, symbol, -, raised, -⟩ := framerExtract_cases c t
    · exact ⟨data, extracted⟩
    · cases (decodeSlice_of_framerExtract_error raised).symm.trans decoded
  rw [decodeBytes_of_framerExtract extracted] at decoded
  split at decoded
  case isFalse => cases decoded
  case isTrue alignment =>
    cases decoded
    rw [wordSeqOf_words, encodeWords, seqToBytes_wordsOf alignment, framerEncode_of_framerExtract extracted clear]

/-- Settles O47: the framer and the assembler are each inverted. -/
theorem pipelineRoundTrips : Obligations.PipelineRoundTrips := fun _ =>
  ⟨fun _ => decodeBytes_encodeWords, fun _ _ => encodeWords_of_decodeBytes⟩

/-! The operations as `exec` runs them. -/

section
variable {s : State} {t : List Byte} (h : presents s (.bytes t))
include h

theorem exec_decode_of_framerExtract {data : List Byte} (extracted : framerExtract s.cfg t = .ok data) :
    exec .decode s = .next
      (if data.length % byteWidth s.cfg = 0 then
        answered s (.message ⟨wordsOf s.cfg data, s.cfg.expectedWordCount⟩)
      else failed s 1 0) := by
  rw [exec_decode_of_presents h, decodeBytes_of_framerExtract extracted, answer_map_ite]
  rfl

theorem exec_decode_of_framing {sub : SubCause} {symbol : Nat}
    (raised : framerExtract s.cfg t = .error (.framing sub symbol)) :
    exec .decode s = .next (failed s 4 (framingInfo (subCauseCode sub) symbol)) := by
  have raised : decodeBytes s.cfg t = .error (.framing sub symbol) := decodeSlice_of_framerExtract_error raised
  rw [exec_decode_of_presents h, raised]
  rfl

end

/-- Settles O45: the framer's data bytes go to the assembler; its FramingError is answered before that. -/
theorem decodeRunsThePipeline : Obligations.DecodeRunsThePipeline := by
  intro s t h
  refine ⟨?passthrough, ?wellFramed, ?badlyFramed⟩
  case passthrough => exact fun hf => exec_decode_of_framerExtract h (framerExtract_of_passthrough hf)
  case wellFramed =>
    intro hf good
    rw [exec_decode_of_framerExtract h (framerExtract_of_wellFramed hf good), length_dataOf]
  case badlyFramed =>
    intro hf bad
    obtain ⟨sub, symbol, raised⟩ := framerExtract_of_not_wellFramed hf bad
    exact ⟨_, exec_decode_of_framing h raised, exec_frExtract_of_framing h raised⟩

theorem all_validWord_iff (c : Config) (ws : List Word) : ws.all (validWord c) = true ↔ allValid c ws := by
  simp only [List.all_eq_true, validWord_iff, allValid]

section
variable {s : State} {ws : List Word} (h : presents s (.words ws))
include h

theorem exec_encode_of_presents :
    exec .encode s = if ws.all (validWord s.cfg) then .next (answered s (.bytes (encodeWords s.cfg ws)))
      else .refused .invalidWord :=
  withWords_of_presents h _

theorem exec_seqToBytes_of_presents :
    exec .seqToBytes s = if ws.all (validWord s.cfg) then .next (answered s (.bytes (seqToBytes s.cfg ws)))
      else .refused .invalidWord :=
  withWords_of_presents h _

theorem exec_seqValid_of_presents :
    exec .seqValid s = .next (answered s (.boolean (wordSeqOf s.cfg ws).travel.isValid)) :=
  withWords_of_presents h _

end

/-- Settles O46: where every word is valid their bytes are framed, else the operation refuses. -/
theorem encodeWritesFramedBytes : Obligations.EncodeWritesFramedBytes := by
  intro s ws h
  rw [exec_encode_of_presents h, encodeWords, framerEncode_eq_framed, seqToBytes_eq_bytesOf, ← all_validWord_iff]
  exact ⟨fun valid => if_pos valid, fun invalid => if_neg invalid⟩

/-- Settles O48: as ENCODE, without the framer. -/
theorem seqToBytesWritesDataBytes : Obligations.SeqToBytesWritesDataBytes := by
  intro s ws h
  rw [exec_seqToBytes_of_presents h, seqToBytes_eq_bytesOf, ← all_validWord_iff]
  exact ⟨fun valid => if_pos valid, fun invalid => if_neg invalid⟩

/-- Settles O49: the count and `CFG.N` are all that `isValid` looks at. -/
theorem seqValidComparesTheCount : Obligations.SeqValidComparesTheCount := fun _ _ => exec_seqValid_of_presents

end Sys2Proof.Machine
end

section
/-! Rules R218 to R220: the named ranges and the status registers. -/

namespace Sys2Proof.Machine

open Sys2Proof.Safety

/-! Named ranges. -/

section
variable {c : Config} {key : Nat} (ws : List Word)

theorem getField_of_absent (absent : lookupKey c.fields key = none) : getField c ws key = .error .unknownField := by
  simp only [getField, absent]

theorem getFieldRange_of_absent (absent : lookupKey c.fields key = none) :
    getFieldRange c ws key = .error .unknownField := by
  simp only [getFieldRange, absent]

/-- Rule R218. -/
theorem getField_of_found {f : FieldSpec} (found : lookupKey c.fields key = some f) :
    getField c ws key = if ws.length ≤ f.startWordIndex then .error .bounds else .ok (ws.getD f.startWordIndex 0) := by
  simp only [getField, found]
  by_cases outside : ws.length ≤ f.startWordIndex
  · rw [if_pos outside, List.drop_eq_nil_of_le outside]
  · rw [if_neg outside, drop_eq_getD_cons (Nat.lt_of_not_le outside)]

/-- Rule R219: the window of an inclusive range is what lies up to its end and from its start. -/
theorem getFieldRange_of_found {f : FieldSpec} (found : lookupKey c.fields key = some f) :
    getFieldRange c ws key = if ws.length ≤ f.endWordIndex then .error .bounds
      else .ok ((ws.take (f.endWordIndex + 1)).drop f.startWordIndex) := by
  simp only [getFieldRange, found, window, List.drop_take, ge_iff_le]

end

section
variable {s : State} {ws : List Word} (h : presents s (.words ws))
include h

theorem exec_getField_of_presents (key : Nat) :
    exec (.getField key) s = .next (s.answer ((getField s.cfg ws key).map .scalar)) :=
  withWords_of_presents h _

theorem exec_getFieldRange_of_presents (key : Nat) :
    exec (.getFieldRange key) s = .next (s.answer ((getFieldRange s.cfg ws key).map .words)) :=
  withWords_of_presents h _

end

/-- Settles O50: the entry under the key, where the table's keys are distinct, is the one looked up. -/
theorem namedRangesGiveTheirWords : Obligations.NamedRangesGiveTheirWords := by
  intro s ws key h wellFormed
  rw [exec_getField_of_presents h, exec_getFieldRange_of_presents h]
  constructor
  · intro absent
    have absent := lookupKey_none.mpr absent
    rw [getField_of_absent ws absent, getFieldRange_of_absent ws absent]
    exact ⟨rfl, rfl⟩
  · intro f present
    have distinct : (s.cfg.fields.map (·.1)).Nodup := by
      by_contra repeated
      exact wellFormed (.inr (.inr (.inl repeated)))
    have found := lookupKey_of_mem distinct present
    rw [getField_of_found ws found, getFieldRange_of_found ws found, answer_map_ite, answer_map_ite]
    exact ⟨rfl, rfl⟩

/-! Status registers. -/

theorem ofNat_shiftLeft (w a n : Nat) : BitVec.ofNat w a <<< n = BitVec.ofNat w (a <<< n) := by
  apply BitVec.eq_of_toNat_eq
  simp [Nat.shiftLeft_eq, Nat.mod_mul_mod]

section
variable (c : Config)

/-- The fields of `CFG0` in their order, each below the number its bits can hold. -/
theorem cfg0_codes_lt : wordSizeCode c.wordSize < 4 ∧ orderCode c.order < 2 ∧ framerCode c.framer < 2
    ∧ widthModeCode c.widthMode < 2 ∧ pairOrderCode c.pairOrder < 2 ∧ c.stream.toNat < 2 := by
  refine ⟨?_, ?_, ?_, ?_, ?_, Bool.toNat_lt c.stream⟩
  · cases c.wordSize <;> decide
  · cases c.order <;> decide
  · cases c.framer <;> decide
  · cases c.widthMode <;> decide
  · cases c.pairOrder <;> decide

/-- Rule R36: the fields of `CFG0` do not overlap, so that the register is the sum of their codes at their places. -/
theorem cfg0Value_eq_sum :
    cfg0Value c = BitVec.ofNat 64 (wordSizeCode c.wordSize + 2 ^ 2 * orderCode c.order + 2 ^ 3 * framerCode c.framer
      + 2 ^ 4 * widthModeCode c.widthMode + 2 ^ 5 * pairOrderCode c.pairOrder + 2 ^ 6 * c.stream.toNat
      + 2 ^ 7 * policyCode c.feedFailPolicy) := by
  obtain ⟨wordSize, order, framer, widthMode, pairOrder, stream⟩ := cfg0_codes_lt c
  simp only [cfg0Value, ofNat_shiftLeft, ← BitVec.ofNat_or]
  rw [lor_shiftLeft_eq_add (n := 2) _ (by omega), lor_shiftLeft_eq_add (n := 3) _ (by omega),
    lor_shiftLeft_eq_add (n := 4) _ (by omega), lor_shiftLeft_eq_add (n := 5) _ (by omega),
    lor_shiftLeft_eq_add (n := 6) _ (by omega), lor_shiftLeft_eq_add (n := 7) _ (by omega)]

end

theorem csrNumberValue_cfg0 (s : State) :
    csrNumberValue s .cfg0 = wordSizeCode s.cfg.wordSize + 2 ^ 2 * orderCode s.cfg.order
      + 2 ^ 3 * framerCode s.cfg.framer + 2 ^ 4 * widthModeCode s.cfg.widthMode
      + 2 ^ 5 * pairOrderCode s.cfg.pairOrder + 2 ^ 6 * s.cfg.stream.toNat
      + 2 ^ 7 * policyCode s.cfg.feedFailPolicy := by
  have sum {a a' b b' : Nat} (ha : a = a') (hb : b = b') : a + b = a' + b' := congrArg₂ HAdd.hAdd ha hb
  refine sum (sum (sum (sum (sum (sum ?wordSize ?order) ?framer) ?widthMode) ?pairOrder) ?stream) ?policy
  case wordSize => cases s.cfg.wordSize <;> rfl
  case order => cases s.cfg.order <;> rfl
  case framer => cases s.cfg.framer <;> rfl
  case widthMode => cases s.cfg.widthMode <;> rfl
  case pairOrder => cases s.cfg.pairOrder <;> rfl
  case stream => cases s.cfg.stream <;> rfl
  case policy => cases s.cfg.feedFailPolicy <;> rfl

/-- Rule R36: every register holds its number modulo `2^64`. -/
theorem csrValue_eq (s : State) (csr : Csr) : csrValue s csr = BitVec.ofNat 64 (csrNumberValue s csr) := by
  cases csr with
  | cfg0 => rw [csrNumberValue_cfg0, ← cfg0Value_eq_sum, csrValue]
  | expwc | expbytes | buflen | nfields | nbitfields => rfl
  | status => exact congrArg (BitVec.ofNat 64) (apply_ite Bool.toNat _ true false)
  | bufcap => cases hcap : s.cfg.bufCap <;> simp [csrValue, csrNumberValue, hcap]

theorem exec_rdcsr_of_presents {s : State} (h : presents s .nothing) (csr : Csr) :
    exec (.rdcsr csr) s = .next (answered s (.scalar (csrValue s csr))) :=
  withNothing_of_presents h _

/-- Settles O51: the answer is the register's value, which is its number. -/
theorem statusRegistersReadTheirNumbers : Obligations.StatusRegistersReadTheirNumbers := by
  intro s csr h
  rw [exec_rdcsr_of_presents h, csrValue_eq]

end Sys2Proof.Machine
end

section
/-! Rule R240: the errors an operation can answer. What each operation computes raises only the errors of its row, and
what it answers has the status of an error raised, or 0. -/

namespace Sys2Proof.Machine

open Sys2Proof.Safety

/-! The errors a computation can raise. -/

/-- Every error raised has one of the codes. -/
def RaisesOnly {α : Type} (codes : List (BitVec 8)) (v : Except OpError α) : Prop :=
  ∀ e, v = .error e → statusCode e ∈ codes

section
variable {α β : Type} {codes : List (BitVec 8)}

theorem raisesOnly_ok (a : α) : RaisesOnly codes (.ok a) := fun _ h => by cases h

theorem raisesOnly_error {e : OpError} (h : statusCode e ∈ codes) : RaisesOnly codes (.error e : Except OpError α) :=
  fun _ he => by cases he; exact h

theorem raisesOnly_ite {b : Prop} [Decidable b] {v w : Except OpError α} (hv : RaisesOnly codes v)
    (hw : RaisesOnly codes w) : RaisesOnly codes (if b then v else w) := by
  split
  · exact hv
  · exact hw

/-- A result put into another form raises what it raised. -/
theorem RaisesOnly.map {v : Except OpError α} (h : RaisesOnly codes v) (f : α → β) : RaisesOnly codes (v.map f) := by
  cases v with
  | ok a => exact raisesOnly_ok (f a)
  | error e => exact raisesOnly_error (h e rfl)

theorem RaisesOnly.mono {codes' : List (BitVec 8)} {v : Except OpError α} (h : RaisesOnly codes v)
    (sub : codes ⊆ codes') : RaisesOnly codes' v :=
  fun e he => sub (h e he)

end

/-! The rows of the assembler, the extractor and the named ranges. -/

theorem raisesOnly_extractWords (c : Config) (bs : List Byte) : RaisesOnly [0, 1] (extractWords c bs) := by
  rw [extractWords_eq]
  exact raisesOnly_ite (raisesOnly_ok _) (raisesOnly_error (by decide))

theorem raisesOnly_bytesToWord (c : Config) (bs : List Byte) (offset : Nat) :
    RaisesOnly [0, 2] (bytesToWord c bs offset) := by
  rw [bytesToWord_eq]
  exact raisesOnly_ite (raisesOnly_error (by decide)) (raisesOnly_ok _)

theorem raisesOnly_extractBits (w : Word) (p n : Nat) : RaisesOnly [0, 3] (extractBits w p n) := by
  rw [extractBits_eq]
  exact raisesOnly_ite (raisesOnly_ok _) (raisesOnly_error (by decide))

theorem raisesOnly_typedInt (kind : ValueKind) (w : Word) (p n : Nat) : RaisesOnly [0, 3] (typedInt kind w p n) := by
  rw [typedInt_eq]
  exact raisesOnly_ite (raisesOnly_ok _) (raisesOnly_error (by decide))

section
variable (c : Config) (ws : List Word)

/-- At the word width no chunk leaves its container, so that the walk adds InsufficientBitsError alone to the checks. -/
theorem raisesOnly_extractAcross (i p n : Nat) : RaisesOnly [0, 2, 3, 6] (extractAcross ws i p n (wordWidth c)) := by
  rw [extractAcross_eq ws i p n rfl (wordWidth_le _ _)]
  exact raisesOnly_ite (raisesOnly_error (by decide)) <| raisesOnly_ite (raisesOnly_error (by decide)) <|
    raisesOnly_ite (raisesOnly_error (by decide)) <| raisesOnly_ite (raisesOnly_error (by decide)) (raisesOnly_ok _)

theorem raisesOnly_extractRange (first last p : Nat) : RaisesOnly [0, 2, 3] (extractRange c ws first last p) := by
  rw [extractRange_eq c ws first last p rfl]
  exact raisesOnly_ite (raisesOnly_error (by decide)) <| raisesOnly_ite (raisesOnly_error (by decide)) (raisesOnly_ok _)

theorem raisesOnly_extractField (f : BitFieldSpec) : RaisesOnly [0, 2, 3, 6] (extractField c ws f) := by
  rw [extractField_eq]
  exact raisesOnly_ite (raisesOnly_error (by decide)) <| raisesOnly_ite (raisesOnly_error (by decide)) <|
    raisesOnly_ite (raisesOnly_error (by decide)) <| raisesOnly_ite (raisesOnly_error (by decide)) (raisesOnly_ok _)

theorem raisesOnly_extractNamed (key : Nat) : RaisesOnly [0, 2, 3, 5, 6] (extractNamed c ws key) := by
  unfold extractNamed
  split
  next => exact raisesOnly_error (by decide)
  next f _ => exact (raisesOnly_extractField c ws f).mono (by decide)

theorem raisesOnly_getField (key : Nat) : RaisesOnly [0, 2, 5] (getField c ws key) := by
  cases found : lookupKey c.fields key with
  | none =>
    rw [getField_of_absent ws found]
    exact raisesOnly_error (by decide)
  | some f =>
    rw [getField_of_found ws found]
    exact raisesOnly_ite (raisesOnly_error (by decide)) (raisesOnly_ok _)

theorem raisesOnly_getFieldRange (key : Nat) : RaisesOnly [0, 2, 5] (getFieldRange c ws key) := by
  cases found : lookupKey c.fields key with
  | none =>
    rw [getFieldRange_of_absent ws found]
    exact raisesOnly_error (by decide)
  | some f =>
    rw [getFieldRange_of_found ws found]
    exact raisesOnly_ite (raisesOnly_error (by decide)) (raisesOnly_ok _)

end

/-! The rows that depend on the framer. -/

theorem raisesOnly_framing {α : Type} {codes : List (BitVec 8)} (h : 4 ∈ codes) (sub : SubCause) (symbol : Nat) :
    RaisesOnly codes (.error (.framing sub symbol) : Except OpError α) :=
  raisesOnly_error h

section
variable (c : Config) (t : List Byte)

theorem raisesOnly_framerExtract : RaisesOnly (statusAllowed c .frExtract) (framerExtract c t) := by
  cases hf : c.framer with
  | passthrough =>
    rw [framerExtract_of_passthrough hf]
    exact raisesOnly_ok t
  | standardMode =>
    have row : statusAllowed c .frExtract = [0, 4] := if_pos hf
    rw [row]
    obtain ⟨data, -, extracted, -⟩ | ⟨sub, symbol, -, raised, -⟩ := framerExtract_cases c t
    · rw [extracted]
      exact raisesOnly_ok data
    · rw [raised]
      exact raisesOnly_framing (by decide) sub symbol

/-- DECODE adds the AlignmentError of the data bytes to what the framer raises. -/
theorem raisesOnly_decodeBytes : RaisesOnly (statusAllowed c .decode) (decodeBytes c t) := by
  cases hf : c.framer with
  | passthrough =>
    have row : statusAllowed c .decode = [0, 1] := if_neg (by simp [hf])
    rw [row, decodeBytes_of_framerExtract (framerExtract_of_passthrough hf)]
    exact raisesOnly_ite (raisesOnly_ok _) (raisesOnly_error (by decide))
  | standardMode =>
    have row : statusAllowed c .decode = [0, 1, 4] := if_pos hf
    rw [row]
    obtain ⟨data, -, extracted, -⟩ | ⟨sub, symbol, -, raised, -⟩ := framerExtract_cases c t
    · rw [decodeBytes_of_framerExtract extracted]
      exact raisesOnly_ite (raisesOnly_ok _) (raisesOnly_error (by decide))
    · have raised : decodeBytes c t = .error (.framing sub symbol) := decodeSlice_of_framerExtract_error raised
      rw [raised]
      exact raisesOnly_framing (by decide) sub symbol

end

/-- A slice's length leaves less room for errors than DECODE has: none under Passthrough, and in StandardMode
AlignmentError only where `N` is odd (rule R182). -/
theorem raisesOnly_decodeSlice {c : Config} {slice : List Byte} (hlen : slice.length = sliceSize c) :
    RaisesOnly (statusAllowed c .feed) (decodeSlice c slice) := by
  cases hf : c.framer with
  | passthrough =>
    rw [decodeSlice_of_passthrough hlen hf]
    exact raisesOnly_ok _
  | standardMode =>
    have row : statusAllowed c .feed = if c.expectedWordCount % 2 = 1 then [0, 1, 4] else [0, 4] := if_pos hf
    rw [row]
    by_cases good : wellFramed c.pairOrder slice
    · rw [decodeSlice_of_wellFramed hlen hf good]
      by_cases even : c.expectedWordCount % 2 = 0
      · rw [if_pos even]
        exact raisesOnly_ok _
      · rw [if_neg even, if_pos (Nat.mod_two_ne_zero.mp even)]
        exact raisesOnly_error (by decide)
    · obtain ⟨sub, k, -, raised⟩ := framerExtract_slice_of_not_wellFramed hlen hf good
      rw [decodeSlice_of_framerExtract_error raised]
      exact raisesOnly_framing (by split <;> decide) sub k

/-! The status answered. -/

/-- Where the ending is a next state, the status it answers stands in the instruction's row. -/
def AnswersAsTabled (c : Config) (i : Instr) (e : Ending) : Prop :=
  ∀ t r, e = .next t → lastResponse t = some r → r.status ∈ statusAllowed c i

theorem zero_mem_statusAllowed (c : Config) (i : Instr) : 0 ∈ statusAllowed c i := by
  cases i with
  | frExtract | feed | feedByte | peek | poll | decode =>
    simp only [statusAllowed]
    split_ifs <;> exact List.mem_cons_self
  | _ => exact List.mem_cons_self

section
variable {c : Config} {i : Instr}

theorem answersAsTabled_respond (s : State) {r : Response} (h : r.status ∈ statusAllowed c i) :
    AnswersAsTabled c i (.next (s.respond r)) := by
  intro t r' ht hr
  injection ht with ht
  obtain rfl : r = r' := by simpa [← ht, lastResponse] using hr
  exact h

theorem answersAsTabled_answerOk (s : State) (v : Result) : AnswersAsTabled c i (.next (s.answerOk v)) :=
  answersAsTabled_respond s (zero_mem_statusAllowed c i)

theorem answersAsTabled_answer (s : State) {v : Except OpError Result} (h : RaisesOnly (statusAllowed c i) v) :
    AnswersAsTabled c i (.next (s.answer v)) := by
  cases v with
  | ok v => exact answersAsTabled_answerOk s v
  | error e => exact answersAsTabled_respond s (h e rfl)

theorem answersAsTabled_refused (why : Refusal) : AnswersAsTabled c i (.refused why) := fun _ _ h => by cases h

theorem answersAsTabled_ite {b : Prop} [Decidable b] {e e' : Ending} (h : b → AnswersAsTabled c i e)
    (h' : AnswersAsTabled c i e') : AnswersAsTabled c i (if b then e else e') := by
  split
  · exact h ‹b›
  · exact h'

section
variable {s : State} {p : Payload} (hp : presents s p)
include hp

theorem answersAsTabled_withBytes {body : List Byte → Ending} (right : rightPayload .bytes p)
    (h : ∀ bs, AnswersAsTabled c i (body bs)) : AnswersAsTabled c i (withBytes s body) := by
  obtain ⟨bs, rfl⟩ := right
  rw [withBytes_of_presents hp]
  exact h bs

theorem answersAsTabled_withWords {body : List Word → Ending} (right : rightPayload .words p)
    (h : ∀ ws, AnswersAsTabled c i (body ws)) : AnswersAsTabled c i (withWords s body) := by
  obtain ⟨ws, rfl⟩ := right
  rw [withWords_of_presents hp]
  exact h ws

theorem answersAsTabled_withWord {body : Word → Ending} (right : rightPayload .word p)
    (h : ∀ w, AnswersAsTabled c i (body w)) : AnswersAsTabled c i (withWord s body) := by
  obtain ⟨w, rfl⟩ := right
  rw [withWord_of_presents hp]
  exact h w

theorem answersAsTabled_withNothing {body : Ending} (right : rightPayload .nothing p) (h : AnswersAsTabled c i body) :
    AnswersAsTabled c i (withNothing s body) := by
  obtain rfl : p = .nothing := right
  rw [withNothing_of_presents hp]
  exact h

end

end

/-! The reassembler's operations, which share one row: every error is that of a slice. -/

theorem length_piece {α : Type} {l : List α} {j n : Nat} (inside : (j + 1) * n ≤ l.length) : (piece l j n).length = n := by
  rw [Nat.succ_mul] at inside
  rw [piece, List.length_take_of_le]
  rw [List.length_drop]
  omega

/-- FEED and FEED_BYTE fail with the error of the first slice that does not decode. -/
theorem feedBytes_answersAsTabled (s : State) (chunk : List Byte) :
    AnswersAsTabled s.cfg .feed (feedBytes s chunk) := by
  intro t r h
  obtain ⟨-, -, ⟨ms, -, rfl⟩ | ⟨ms, e, failing, rfl⟩⟩ := feedBytes_next h
  · rw [← drain_eq_drained]
    exact answersAsTabled_answerOk _ _ _ r rfl
  · obtain ⟨whole, -, raised⟩ := decodeSlices_error failing
    have row := raisesOnly_decodeSlice (length_piece (Nat.mul_le_of_le_div _ _ _ whole)) e raised
    exact answersAsTabled_respond _ row _ r rfl

/-- Where a message is pending, the front of the buffer is one slice. -/
theorem raisesOnly_decodeSlice_front {s : State} (pending : hasMsg s = true) :
    RaisesOnly (statusAllowed s.cfg .feed) (decodeSlice s.cfg (s.buf.take (sliceBytes s.cfg))) :=
  raisesOnly_decodeSlice (List.length_take_of_le ((hasMsg_iff s).mp pending))

theorem execPoll_answersAsTabled {s : State} (hp : presents s .nothing) : AnswersAsTabled s.cfg .poll (execPoll s) := by
  refine answersAsTabled_withNothing hp rfl (answersAsTabled_ite (fun pending => ?_) (answersAsTabled_answerOk s _))
  have row := raisesOnly_decodeSlice_front pending
  split
  next => exact answersAsTabled_answerOk _ _
  next e raised => exact answersAsTabled_respond _ (row e raised)

/-! All operations. -/

/-- Rule R240. -/
theorem exec_answersAsTabled {i : Instr} {s : State} {p : Payload} (hp : presents s p)
    (right : rightPayload (payloadKindOf i) p) : AnswersAsTabled s.cfg i (exec i s) := by
  have ok := @answersAsTabled_answerOk s.cfg i s
  cases i with
  | extractWords =>
    exact answersAsTabled_withBytes hp right fun bs => answersAsTabled_answer s ((raisesOnly_extractWords _ bs).map _)
  | bytesToWord offset =>
    exact answersAsTabled_withBytes hp right fun bs =>
      answersAsTabled_answer s ((raisesOnly_bytesToWord _ bs offset).map _)
  | frExtract =>
    exact answersAsTabled_withBytes hp right fun t => answersAsTabled_answer s ((raisesOnly_framerExtract _ t).map _)
  | decode =>
    exact answersAsTabled_withBytes hp right fun t => answersAsTabled_answer s ((raisesOnly_decodeBytes _ t).map _)
  | validate | frEncode | frValidate => exact answersAsTabled_withBytes hp right fun _ => ok _
  | wordToBytes =>
    exact answersAsTabled_withWord hp right fun _ => answersAsTabled_ite (fun _ => ok _) (answersAsTabled_refused _)
  | extractBits p n | extractBool p =>
    exact answersAsTabled_withWord hp right fun w => answersAsTabled_answer s ((raisesOnly_extractBits w p _).map _)
  | extractFloat32 p | extractFloat64 p =>
    exact answersAsTabled_withWord hp right fun w =>
      answersAsTabled_answer s (((raisesOnly_extractBits w p _).map _).map _)
  | extractInt8 p n | extractInt16 p n | extractInt32 p n | extractUint8 p n | extractUint16 p n | extractUint32 p n =>
    exact answersAsTabled_withWord hp right fun w => answersAsTabled_answer s ((raisesOnly_typedInt _ w p n).map _)
  | extractAcross j p n =>
    exact answersAsTabled_withWords hp right fun ws =>
      answersAsTabled_answer s ((raisesOnly_extractAcross _ ws j p n).map _)
  | extractRange first last p =>
    exact answersAsTabled_withWords hp right fun ws =>
      answersAsTabled_answer s ((raisesOnly_extractRange _ ws first last p).map _)
  | extractField j p n kind =>
    exact answersAsTabled_withWords hp right fun ws =>
      answersAsTabled_answer s ((raisesOnly_extractField _ ws ⟨j, p, n, kind⟩).map _)
  | extractNamed key =>
    exact answersAsTabled_withWords hp right fun ws =>
      answersAsTabled_answer s ((raisesOnly_extractNamed _ ws key).map _)
  | getField key =>
    exact answersAsTabled_withWords hp right fun ws => answersAsTabled_answer s ((raisesOnly_getField _ ws key).map _)
  | getFieldRange key =>
    exact answersAsTabled_withWords hp right fun ws =>
      answersAsTabled_answer s ((raisesOnly_getFieldRange _ ws key).map _)
  | encode | seqToBytes =>
    exact answersAsTabled_withWords hp right fun _ => answersAsTabled_ite (fun _ => ok _) (answersAsTabled_refused _)
  | seqValid => exact answersAsTabled_withWords hp right fun _ => ok _
  | feed => exact answersAsTabled_withBytes hp right (feedBytes_answersAsTabled s)
  | feedByte byte => exact answersAsTabled_withNothing hp right (feedBytes_answersAsTabled s [byte])
  | peek =>
    exact answersAsTabled_withNothing hp right <|
      answersAsTabled_ite (fun pending => answersAsTabled_answer s ((raisesOnly_decodeSlice_front pending).map _)) (ok _)
  | poll =>
    obtain rfl : p = .nothing := right
    exact execPoll_answersAsTabled hp
  | reset => exact answersAsTabled_withNothing hp right (answersAsTabled_answerOk _ _)
  | rdcsr => exact answersAsTabled_withNothing hp right (ok _)

/-- Settles O54: with the right payload a command is not illegal, so that its status is 0 or that of an error its
computation raises. -/
theorem operationsFailOnlyAsTabled : Obligations.OperationsFailOnlyAsTabled :=
  fun _ _ t _ r _ hp right run last => exec_answersAsTabled hp right t r run last

end Sys2Proof.Machine
end

section
/-! Rules R199, R260 to R262: a hard reset is carried out exactly where its configuration is well formed, and empties the
buffer; no step after it makes the configuration malformed or the buffer larger than its capacity. -/

namespace Sys2Proof.Machine

open Sys2Proof.Safety

/-! The buffer's capacity (rule R199). -/

theorem roomFor_zero (c : Config) : roomFor c 0 := fun _ _ => Nat.zero_le _

theorem roomFor_mono {c : Config} {m n : Nat} (room : roomFor c n) (h : m ≤ n) : roomFor c m :=
  fun cap hc => h.trans (room cap hc)

theorem length_failBuffer_le (c : Config) (ix m : Nat) (all : List Byte) :
    (failBuffer c ix m all).length ≤ all.length := (List.drop_sublist _ _).length_le

/-- What stays after feeding is a part of what was held and fed, however it ends. -/
theorem feedBytes_buf_length_le {s t : State} {chunk : List Byte} (h : feedBytes s chunk = .next t) :
    t.buf.length ≤ (s.buf ++ chunk).length := by
  obtain ⟨-, -, ⟨ms, -, rfl⟩ | ⟨ms, e, -, rfl⟩⟩ := feedBytes_next h
  · exact (List.drop_sublist _ _).length_le
  · rw [State.raise_buf, State.useFree_buf, State.streamFailed_buf, State.setBuf_buf]
    exact length_failBuffer_le ..

/-- Rule R199: bytes are fed only where there is room for them, so that what stays is within the capacity, too. -/
theorem feedBytes_roomFor {s t : State} {chunk : List Byte} (h : feedBytes s chunk = .next t) :
    roomFor s.cfg t.buf.length := by
  obtain ⟨-, within, -⟩ := feedBytes_next h
  exact roomFor_mono ((withinCapacity_iff ..).mp within) (feedBytes_buf_length_le h)

/-- FEED and FEED_BYTE test the capacity, and no other operation lengthens the buffer. -/
theorem exec_keeps_roomFor {i : Instr} {s t : State} (room : roomFor s.cfg s.buf.length) (h : exec i s = .next t) :
    roomFor s.cfg t.buf.length := by
  cases exec_next h with
  | fed _ _ hf => exact feedBytes_roomFor hf
  | illegal => exact room
  | answer _ v => rwa [answer_buf]
  | polled => exact roomFor_mono room (List.drop_sublist _ _).length_le
  | pollFailed => exact roomFor_mono room (length_failBuffer_le ..)
  | emptied => exact roomFor_zero _

theorem exec_keeps_instanceOk {i : Instr} {s t : State} (hs : instanceOk s) (h : exec i s = .next t) :
    instanceOk t := by
  obtain ⟨wellFormed, room⟩ := hs
  rw [instanceOk, exec_cfg h]
  exact ⟨wellFormed, exec_keeps_roomFor room h⟩

/-- Rules R261, R262: whatever stood before. -/
theorem instanceOk_construct (s : State) {c : Config} (wellFormed : ¬ malformed c) : instanceOk (s.construct c) :=
  ⟨wellFormed, roomFor_zero c⟩

/-- Settles O55: a step stands still, carries out a hard reset, answers an illegal word, or runs an operation, which keeps the
configuration and the capacity. -/
theorem stepKeepsTheInstanceWellFormed : Obligations.StepKeepsTheInstanceWellFormed := by
  intro s t hs h
  obtain ⟨-, rfl⟩ | ⟨c, rest, -, accepted, rfl⟩ | ⟨w, p, rest, -, -, ⟨why, -, rfl⟩ | ⟨i, -, run⟩⟩ := step_next h
  · exact hs
  · exact instanceOk_construct s ((configOk_iff c).mp accepted)
  · exact hs
  · exact exec_keeps_instanceOk hs run

/-! Malformed configurations (rule R262). -/

theorem configOk_eq_false_of_malformed {c : Config} (bad : malformed c) : configOk c = false :=
  Bool.eq_false_iff.mpr fun ok => (configOk_iff c).mp ok bad

theorem step_hardReset_of_malformed {s : State} {c : Config} {rest : List HostEvent}
    (hin : s.inbox = .hardReset c :: rest) (bad : malformed c) : step s = .refused .malformedConfiguration := by
  simp [step, fetch, hin, hardReset, configOk_eq_false_of_malformed bad]

theorem step_command_of_malformed {s : State} {w : Word} {p : Payload} {rest : List HostEvent}
    (hin : s.inbox = .command w p :: rest) (bad : malformed s.cfg) : step s = .refused .malformedConfiguration := by
  simp [step, fetch, hin, configOk_eq_false_of_malformed bad]

/-- Settles O8: a well-formed configuration is not refused, since its hard reset gives a next state. -/
theorem malformedConfigurationIsRefused : Obligations.MalformedConfigurationIsRefused := by
  refine ⟨fun s c rest hin => ⟨step_hardReset_of_malformed hin, fun refused => ?_⟩,
    fun _ _ _ _ => step_command_of_malformed⟩
  by_contra wellFormed
  cases (step_hardReset hin wellFormed).symm.trans refused

/-! The state after a hard reset (rules R260, R261). -/

/-- Settles O9: `construct` writes the configuration and the buffer, and takes the event from the inbox. -/
theorem hardResetSetsConfigurationAndEmptiesBuffer : Obligations.HardResetSetsConfigurationAndEmptiesBuffer := by
  intro s c rest hin wellFormed
  rw [step_hardReset hin wellFormed, State.construct, hin, List.tail_cons]

theorem resetConfig_wellFormed : ¬ malformed State.resetConfig := (configOk_iff _).mp (by decide)

theorem responsesOk_of_out_eq_nil {s : State} (h : s.out = []) : responsesOk s := by
  simp [responsesOk, h]

/-- Less than a slice is buffered, since a slice of a well-formed configuration is not empty. -/
theorem hasMsg_eq_false_of_buf_eq_nil {s : State} (wellFormed : ¬ malformed s.cfg) (empty : s.buf = []) :
    hasMsg s = false := by
  have words : 1 ≤ s.cfg.expectedWordCount := Nat.pos_of_ne_zero fun zero => wellFormed (.inl zero)
  simp [hasMsg, empty, (sliceBytes_pos s.cfg words).ne']

/-- Settles O57: the configuration of `State.reset` is well formed, whatever its pair order; nothing is buffered or sent. -/
theorem resetMeetsTheInvariants : Obligations.ResetMeetsTheInvariants :=
  ⟨⟨resetConfig_wellFormed, roomFor_zero _⟩, responsesOk_of_out_eq_nil rfl, rfl,
    hasMsg_eq_false_of_buf_eq_nil resetConfig_wellFormed rfl⟩

end Sys2Proof.Machine
end
